-- ==== Sys2Proof/Word.lean ====
section
/-! DEFINITION. The words of the block: bytes and 16-bit checksum values (00_scope.md, section 6). -/

namespace Sys2Proof

/-- A byte: 8 bits, bit 0 least significant. -/
abbrev Byte := BitVec 8

/-- A checksum value, the spec's u16. -/
abbrev Word16 := BitVec 16

end Sys2Proof
end

