-- ==== Sys2Proof/Config.lean ====
section
/-! DEFINITION. What is fixed for one machine: the parameter CAP (R7) and the constants of the block (R8). -/

namespace Sys2Proof.Config

/-- The capacity of the frame buffer in bytes: any natural number of at least 3 (R7, decision D1). -/
structure Capacity where
  val : Nat
  three_le : 3 ≤ val
deriving DecidableEq, Repr

/-- DESIGN CHOICE (log 1). By how much the capacity of the reader of `State.reset` exceeds 3: the spec
leaves CAP OPEN (R7), so this constant has no body and every claim holds whatever it is. -/
opaque capacityExcess : Nat

/-- The capacity of the reader of `State.reset` (log 1). -/
def capacity : Capacity := ⟨capacityExcess + 3, Nat.le_add_left 3 capacityExcess⟩

/-- `FLAG` (R8, R71): start flag and stop flag. -/
abbrev flag : Byte := 0x7E#8

/-- `FMT_MASK` (R8): selects the frame format type. -/
abbrev fmtMask : Byte := 0xF0#8

/-- `FMT_VALID` (R8): the single accepted masked value. -/
abbrev fmtValid : Byte := 0xA0#8

/-- `LEN_HI_MASK` (R8): selects length bits 11..8. -/
abbrev lenHiMask : Byte := 0x0F#8

/-- `ADDR_MAX` (R8): greatest length in bytes of one address field. -/
abbrev addrMax : Nat := 3

/-- `ADDR_FIRST` (R8): buffer offset of the first destination address byte. -/
abbrev addrFirst : Nat := 3

/-- `CRC_POLY` (R8, R100): the polynomial 0x1021 with its bits reversed. -/
abbrev crcPoly : Word16 := 0x8408#16

/-- `CRC_INIT` (R8): seed of the checksum register. -/
abbrev crcInit : Word16 := 0xFFFF#16

/-- `CRC_XOROUT` (R8): final XOR. -/
abbrev crcXorOut : Word16 := 0xFFFF#16

end Sys2Proof.Config
end

