-- ==== Sys2Proof/Syntax.lean ====
section
/-! DEFINITION. The instructions: one constructor for each row of spec/opcode_table.json. A row is one of the
block's operations (R9), the constant table CRC16.TABLE (R101), or a sub-operation of FEED (R80). -/

namespace Sys2Proof

/-- The twelve sub-operations of FEED (R80). -/
inductive SubOp where
  | ignore | restart | dup | start | fmt | len | dst | src | hcs | fcs | stop | store
deriving DecidableEq, Repr

/-- One constructor per row of the operation table. A sub-operation carries the fed byte `b`. -/
inductive Instr where
  /-- CLEAR (R160). -/
  | clear
  /-- FEED b (R120, R136). -/
  | feed (b : Byte)
  /-- GETRAW (R162). -/
  | getraw
  /-- CRC16 (bytes, start, length) (R104). -/
  | crc16 (bytes : List Byte) (start length : Nat)
  /-- CRCSTEP (fcs, b) (R102). -/
  | crcstep (fcs : Word16) (b : Byte)
  /-- CRC16.TABLE i (R101). -/
  | crc16Table (i : Byte)
  /-- ISVALID buf (R176). -/
  | isvalid (buf : List Byte)
  /-- FEED.IGNORE (R121). -/
  | feedIgnore (b : Byte)
  /-- FEED.RESTART (R122, R123). -/
  | feedRestart (b : Byte)
  /-- FEED.DUP (R124). -/
  | feedDup (b : Byte)
  /-- FEED.START (R127). -/
  | feedStart (b : Byte)
  /-- FEED.FMT (R128). -/
  | feedFmt (b : Byte)
  /-- FEED.LEN (R129). -/
  | feedLen (b : Byte)
  /-- FEED.DST (R130). -/
  | feedDst (b : Byte)
  /-- FEED.SRC (R131). -/
  | feedSrc (b : Byte)
  /-- FEED.HCS (R132). -/
  | feedHcs (b : Byte)
  /-- FEED.FCS (R133). -/
  | feedFcs (b : Byte)
  /-- FEED.STOP (R134). -/
  | feedStop (b : Byte)
  /-- FEED.STORE (R135). -/
  | feedStore (b : Byte)
deriving DecidableEq, Repr

/-- The instruction of a sub-operation on a fed byte. -/
def SubOp.instr : SubOp → Byte → Instr
  | .ignore, b => .feedIgnore b
  | .restart, b => .feedRestart b
  | .dup, b => .feedDup b
  | .start, b => .feedStart b
  | .fmt, b => .feedFmt b
  | .len, b => .feedLen b
  | .dst, b => .feedDst b
  | .src, b => .feedSrc b
  | .hcs, b => .feedHcs b
  | .fcs, b => .feedFcs b
  | .stop, b => .feedStop b
  | .store, b => .feedStore b

end Sys2Proof
end

