-- ==== Sys2Proof/WellFormed.lean ====
section
/-! DEFINITION. Which instructions the spec's tables admit: the condition on the fed byte that a sub-operation's row
states (R80), and the span of CRC16 inside its byte sequence (R104). -/

namespace Sys2Proof

/-- The condition of a sub-operation's row of R80 on the fed byte alone. -/
def SubOp.admits : SubOp → Byte → Bool
  | .ignore, b => b != Config.flag
  | .dup, b => b == Config.flag
  | .start, b => b == Config.flag
  | .fmt, b => b != Config.flag
  | .restart, _ => true
  | .len, _ => true
  | .dst, _ => true
  | .src, _ => true
  | .hcs, _ => true
  | .fcs, _ => true
  | .stop, _ => true
  | .store, _ => true

/-- The instruction's operands are in their domain. -/
def Instr.wellFormed : Instr → Bool
  | .clear => true
  | .feed _ => true
  | .getraw => true
  | .crc16 bytes start length => decide (start + length ≤ bytes.length)
  | .crcstep _ _ => true
  | .crc16Table _ => true
  | .isvalid _ => true
  | .feedIgnore b => SubOp.admits .ignore b
  | .feedRestart b => SubOp.admits .restart b
  | .feedDup b => SubOp.admits .dup b
  | .feedStart b => SubOp.admits .start b
  | .feedFmt b => SubOp.admits .fmt b
  | .feedLen b => SubOp.admits .len b
  | .feedDst b => SubOp.admits .dst b
  | .feedSrc b => SubOp.admits .src b
  | .feedHcs b => SubOp.admits .hcs b
  | .feedFcs b => SubOp.admits .fcs b
  | .feedStop b => SubOp.admits .stop b
  | .feedStore b => SubOp.admits .store b

end Sys2Proof
end

