-- ==== Sys2Proof/Decode.lean ====
section
/-! DEFINITION. Requests as bytes: the decoder and the encoder.

The spec gives the operations no binary encoding (R87, N17). The byte form of a request is the model's own
(DESIGN CHOICE, log 5). Of the spec it keeps the one thing the table does encode: bits 7..0 of an instruction are the
fed byte, to which the table's match and mask apply (R80, R87), and a sub-operation is named by its `order`. A request is

    operand byte, selector byte, further operands

with the selectors 0 (FEED: the state selects the sub-operation, R80), 1 to 12 (a sub-operation by the `order` of its
row), 16 CLEAR, 17 GETRAW, 18 CRC16, 19 CRCSTEP, 20 CRC16.TABLE, 21 ISVALID. The operand byte of an operation without
one is 0. A byte sequence is sent as 01 and a byte for each element, then 00; a natural number as that many 01, then
00; `fcs` as its low byte, then its high byte. -/

namespace Sys2Proof

/-- Why bytes are no request. -/
inductive DecodeError where
  /-- The bytes end inside a request. -/
  | truncated
  /-- A byte sequence or a number holds a marker other than 00 and 01. -/
  | badMarker
  /-- The selector names no row. -/
  | unknownSelector
  /-- An operation without operand byte has one other than 00. -/
  | reservedOperand
  /-- The fed byte does not meet the condition of the named sub-operation's row (R80). -/
  | byteMismatch
  /-- The span of CRC16 does not lie within its byte sequence (R104, U4). -/
  | spanOutOfBounds
deriving DecidableEq, Repr

/-- What decoding answers: a value with the bytes that follow it, or a rejection by name. -/
inductive Decoded (α : Type) where
  | ok (a : α) (rest : List Byte)
  | rejected (why : DecodeError)
deriving DecidableEq, Repr

/-- Change the decoded value. -/
def Decoded.map {α β : Type} (f : α → β) : Decoded α → Decoded β
  | .ok a rest => .ok (f a) rest
  | .rejected why => .rejected why

/-- Decode one value, then go on with the bytes after it. -/
def Decoded.andThen {α β : Type} : Decoded α → (α → List Byte → Decoded β) → Decoded β
  | .ok a rest, f => f a rest
  | .rejected why, _ => .rejected why

/-- A byte sequence: 01 and a byte for each element, then 00. -/
def takeBytes : List Byte → Decoded (List Byte)
  | [] => .rejected .truncated
  | [m] => if m = 0#8 then .ok [] [] else if m = 1#8 then .rejected .truncated else .rejected .badMarker
  | m :: b :: t =>
    if m = 0#8 then .ok [] (b :: t)
    else if m = 1#8 then (takeBytes t).map (b :: ·)
    else .rejected .badMarker

/-- A natural number: that many 01, then 00. -/
def takeNat : List Byte → Decoded Nat
  | [] => .rejected .truncated
  | m :: t =>
    if m = 0#8 then .ok 0 t
    else if m = 1#8 then (takeNat t).map (· + 1)
    else .rejected .badMarker

/-- The operands of CRC16: start, length, bytes. -/
def takeSpan (t : List Byte) : Decoded Instr :=
  (takeNat t).andThen fun start t1 =>
  (takeNat t1).andThen fun length t2 =>
  (takeBytes t2).andThen fun bytes rest =>
    if start + length ≤ bytes.length then .ok (.crc16 bytes start length) rest
    else .rejected .spanOutOfBounds

/-- The operand `fcs` of CRCSTEP: low byte, high byte. -/
def takeWord : List Byte → Decoded Word16
  | lo :: hi :: t => .ok (hi ++ lo) t
  | [_] => .rejected .truncated
  | [] => .rejected .truncated

/-- The sub-operation whose row has the given `order`. -/
def SubOp.ofOrder : Nat → Option SubOp
  | 1 => some .ignore
  | 2 => some .restart
  | 3 => some .dup
  | 4 => some .start
  | 5 => some .fmt
  | 6 => some .len
  | 7 => some .dst
  | 8 => some .src
  | 9 => some .hcs
  | 10 => some .fcs
  | 11 => some .stop
  | 12 => some .store
  | _ => none

/-- A request without operand byte: that byte must be 00. -/
def noOperand (b : Byte) (d : Decoded Instr) : Decoded Instr :=
  if b = 0#8 then d else .rejected .reservedOperand

/-- The request with operand byte `b`, the given selector, and further operands in `t`. -/
def decodeSelected (b : Byte) (selector : Nat) (t : List Byte) : Decoded Instr :=
  match selector with
  | 0 => .ok (.feed b) t
  | 16 => noOperand b (.ok .clear t)
  | 17 => noOperand b (.ok .getraw t)
  | 18 => noOperand b (takeSpan t)
  | 19 => (takeWord t).map fun fcs => .crcstep fcs b
  | 20 => .ok (.crc16Table b) t
  | 21 => noOperand b ((takeBytes t).map .isvalid)
  | n =>
    match SubOp.ofOrder n with
    | some sub => if sub.admits b then .ok (sub.instr b) t else .rejected .byteMismatch
    | none => .rejected .unknownSelector

/-- The decoder: total on any bytes, it answers the first request and the bytes after it, or rejects by name. -/
def decode : List Byte → Decoded Instr
  | b :: sel :: t => decodeSelected b sel.toNat t
  | [_] => .rejected .truncated
  | [] => .rejected .truncated

/-! The encoder. -/

/-- The bytes of a byte sequence. -/
def putBytes : List Byte → List Byte
  | [] => [0#8]
  | b :: t => 1#8 :: b :: putBytes t

/-- The bytes of a natural number. -/
def putNat : Nat → List Byte
  | 0 => [0#8]
  | n + 1 => 1#8 :: putNat n

/-- The bytes of a 16-bit word, low byte first. -/
def putWord (w : Word16) : List Byte := [w.setWidth 8, (w >>> 8).setWidth 8]

/-- The encoder: the bytes of a request. -/
def encode : Instr → List Byte
  | .feed b => [b, 0#8]
  | .feedIgnore b => [b, 1#8]
  | .feedRestart b => [b, 2#8]
  | .feedDup b => [b, 3#8]
  | .feedStart b => [b, 4#8]
  | .feedFmt b => [b, 5#8]
  | .feedLen b => [b, 6#8]
  | .feedDst b => [b, 7#8]
  | .feedSrc b => [b, 8#8]
  | .feedHcs b => [b, 9#8]
  | .feedFcs b => [b, 10#8]
  | .feedStop b => [b, 11#8]
  | .feedStore b => [b, 12#8]
  | .clear => [0#8, 16#8]
  | .getraw => [0#8, 17#8]
  | .crc16 bytes start length => 0#8 :: 18#8 :: (putNat start ++ putNat length ++ putBytes bytes)
  | .crcstep fcs b => b :: 19#8 :: putWord fcs
  | .crc16Table i => [i, 20#8]
  | .isvalid buf => 0#8 :: 21#8 :: putBytes buf

/-! Words of the operation table (log 6). -/

/-- The `n` low bytes of `w`, the least significant first: bit 0 of the table is bit 0 of the first byte. -/
def lowBytes : Nat → Nat → List Byte
  | 0, _ => []
  | n + 1, w => BitVec.ofNat 8 w :: lowBytes n (w / 256)

/-- An instruction of `nbits` bits with the bits `w`, followed by operand bytes of zeros. -/
def tableBytes (nbits w : Nat) : List Byte :=
  lowBytes ((nbits + 7) / 8) (w % 2 ^ nbits) ++ List.replicate 8 0#8

/-- The instruction the decoder reads from a word of the operation table. A row of FEED's sub-operations gives the fed
byte and no operation: its word is FEED of that byte, since the state selects the sub-operation (R80, log 6). -/
def decodeTableWord (nbits w : Nat) : Option Instr :=
  match decode (tableBytes nbits w) with
  | .ok i _ => some i
  | .rejected _ => none

/-- The bytes of one request for a word of the operation table, without the zeros after it. -/
def requestBytes (nbits w : Nat) : List Byte :=
  match decode (tableBytes nbits w) with
  | .ok _ rest => (tableBytes nbits w).take ((tableBytes nbits w).length - rest.length)
  | .rejected _ => tableBytes nbits w

end Sys2Proof
end

