-- ==== Sys2Proof/Machine/State.lean ====
section
/-! DEFINITION. The state of one reader (R20 to R27), the outputs of an operation, and the reasons a step can stop. -/

namespace Sys2Proof.Machine

/-- The causes of FEED's output `drop` (R192). -/
inductive DropCause where
  | none | format | dstLong | srcLong | overflow | hcs | fcs | stop | short
deriving DecidableEq, Repr

/-- The reason codes of ISVALID (R179). -/
inductive Reason where
  | ok | noStartFlag | tooShort | addressUnterminated | hcs | fcs
deriving DecidableEq, Repr

/-- A payload slice as GETRAW returns it (R162): values, not a reference (R62). -/
structure Slice where
  start : Nat
  len   : Nat
  bytes : List Byte
deriving DecidableEq, Repr

/-- The outputs of one operation. The spec stores none of them (R191); DESIGN CHOICE (log 3). -/
inductive Output where
  /-- No output: nothing executed yet, or CLEAR (R160). -/
  | none
  /-- FEED: `done` and `drop` (R137). -/
  | feed (done : Bool) (drop : DropCause)
  /-- GETRAW: absent, or the payload (R162). -/
  | raw (slice : Option Slice)
  /-- CRC16, CRCSTEP, CRC16.TABLE: a 16-bit value. -/
  | word (value : Word16)
  /-- ISVALID: `valid` and `reason` (R176). -/
  | verdict (valid : Bool) (reason : Reason)
deriving DecidableEq, Repr

/-- The frame buffer as offset and byte pairs: offsets strictly rising, no entry equal to what an unlisted offset
reads as (`Memory.wf`). -/
abbrev Memory := List Host.Cell

/-- The state. -/
structure State where
  /-- `CAP` (R7): configuration, changed by no step (log 1). -/
  cap : Config.Capacity
  /-- The frame buffer (R21). -/
  buffer : Memory
  /-- The cursor (R22). -/
  position : Nat
  /-- The masked format byte (R23). -/
  frameFormatType : Byte
  /-- The 12-bit length field (R24). -/
  dataLength : BitVec 12
  /-- The length of the destination address, 0 while absent (R25). -/
  dlen : Fin 4
  /-- The length of the source address, 0 while absent (R26). -/
  slen : Fin 4
  /-- Whether a frame is complete (R27). -/
  complete : Bool
  /-- The model's own: the outputs of the last operation (log 3). -/
  output : Output
  /-- The model's own: the bytes of the host's requests not yet taken (log 4). -/
  inbox : List Byte
deriving DecidableEq, Repr

/-- Why a step stops with a fault. -/
inductive Fault where
  /-- Raised by GETRAW when its payload slice leaves the buffer `0 .. CAP-1`. Safe: by R55 no rule accesses such an
  offset, so only a state that no run reaches raises it (log 10). -/
  | outsideBuffer (start len : Nat)
deriving DecidableEq, Repr

/-- Why a step has no meaning. -/
inductive Refusal where
  /-- Raised by an arm of `exec` whose instruction has no meaning yet. Safe. No arm raises it. -/
  | notModelled (mnemonic : String)
  /-- Raised by `step` when the host's bytes are no request. Safe: the spec gives no meaning to them (log 5). -/
  | badRequest (why : DecodeError)
  /-- Raised by a sub-operation of FEED named in a state, or with a byte, whose row of R80 does not select it. Safe: the
  spec gives it no effect there (log 7). -/
  | notSelected (sub : SubOp)
  /-- Raised by CRC16 when `start + length` is beyond its byte sequence. Safe: the spec says `refuse` (U4, log 9). -/
  | spanOutOfBounds
deriving DecidableEq, Repr

/-- A fresh reader of capacity `cap`: the empty Frame (R32, R220). -/
def State.empty (cap : Config.Capacity) : State where
  cap := cap
  buffer := []
  position := 0
  frameFormatType := 0x00#8
  dataLength := 0#12
  dlen := 0
  slen := 0
  complete := false
  output := .none
  inbox := []

/-- The machine right after reset (R32). -/
def State.reset : State := State.empty Config.capacity

end Sys2Proof.Machine
end

