-- ==== Sys2Proof/Machine/Ops.lean ====
section
/-! DEFINITION. The named operations over the buffer, the registers and the host's requests. -/

namespace Sys2Proof.Machine

/-! ## The frame buffer -/

/-- What an unlisted offset reads as. DESIGN CHOICE (log 2): the spec leaves these bytes open (R38, U2). -/
def unwrittenByte : Byte := 0x00#8

/-- The byte at an offset. -/
def Memory.read : Memory → Nat → Byte
  | [], _ => unwrittenByte
  | (k, v) :: t, a => if k = a then v else Memory.read t a

/-- Take every entry of an offset out. -/
def Memory.erase (m : Memory) (a : Nat) : Memory := m.filter fun c => c.1 != a

/-- Put an entry at its place in the rising order. -/
def Memory.insert : Memory → Nat → Byte → Memory
  | [], a, v => [(a, v)]
  | (k, w) :: t, a, v => if a < k then (a, v) :: (k, w) :: t else (k, w) :: Memory.insert t a v

/-- `MemWrite(a, 1, v)`: one byte (R54). Writing what an unlisted offset reads as leaves it unlisted. -/
def Memory.write (m : Memory) (a : Nat) (v : Byte) : Memory :=
  if v = unwrittenByte then Memory.erase m a else Memory.insert (Memory.erase m a) a v

/-- The canonical form: offsets strictly rising, no entry equal to what an unlisted offset reads as. -/
def Memory.wf : Memory → Bool
  | [] => true
  | (k, v) :: t => v != unwrittenByte && t.all (fun c => decide (k < c.1)) && Memory.wf t

/-- Every listed offset is one of `0 .. cap-1` (R21). -/
def Memory.within (m : Memory) (cap : Nat) : Bool := m.all fun c => decide (c.1 < cap)

/-- `MemRead(a, 1)`. -/
def State.byteAt (s : State) (a : Nat) : Byte := Memory.read s.buffer a

/-- `MemRead(start, n)` of a source of bytes: `n` bytes in increasing offset order. -/
def spanOf (at_ : Nat → Byte) (start n : Nat) : List Byte := (List.range n).map fun k => at_ (start + k)

/-- Whether every offset of a span lies in `0 .. CAP-1`; an empty span has none (R55, R163). -/
def State.spanInBuffer (s : State) (start n : Nat) : Bool := n == 0 || decide (start + n ≤ s.cap.val)

/-! ## Bytes, bits and byte order (R52) -/

/-- `odd(b)`: bit 0 is 1 (R75). -/
def odd (b : Byte) : Bool := b.getLsbD 0

/-- Two bytes as a 16-bit value, low byte first (R52 (a)). -/
def littleEndian (lo hi : Byte) : Word16 := lo.setWidth 16 ||| (hi.setWidth 16 <<< 8)

/-- The 12-bit length: `((format & 0x0F) << 8) | low` (R74). -/
def assembleLength (format low : Byte) : BitVec 12 :=
  ((format &&& Config.lenHiMask).setWidth 12 <<< 8) ||| low.setWidth 12

/-! ## Reset, outputs and drops -/

/-- `Clear()` (R31): every register, not the buffer. -/
def State.clear (s : State) : State :=
  { s with position := 0, dataLength := 0#12, frameFormatType := 0x00#8, dlen := 0, slen := 0, complete := false }

/-- `return (done, drop)`: the outputs of FEED (R137). -/
def State.answer (s : State) (done : Bool) (cause : DropCause) : State := { s with output := .feed done cause }

/-- `drop <Cause>` (R191, R195): the block's one analogue of taking an exception. Every register is cleared, nothing is
saved, and the next operation starts from Idle; there is no operation that returns from it (R196). -/
def State.drop (s : State) (cause : DropCause) : State := s.clear.answer false cause

/-- The store (R125): one byte at `position`, then `position + 1`. -/
def State.store (s : State) (b : Byte) : State :=
  { s with buffer := Memory.write s.buffer s.position b, position := s.position + 1 }

/-! ## The host's requests -/

/-- Whether the host has delivered no operation. -/
def State.idle (s : State) : Bool := s.inbox.isEmpty

/-- The next request, with the bytes after it. -/
def State.fetch (s : State) : Decoded Instr := decode s.inbox

end Sys2Proof.Machine
end

