-- ==== Sys2Proof/Machine/Operands.lean ====
section
/-! DEFINITION. Quantities derived from the state (R28), the conceptual states (R36), and the operand form of FEED: which
sub-operation a fed byte selects (R80). -/

namespace Sys2Proof.Machine

/-! ## Derived positions and lengths (R28)

R28 defines them where `dlen > 0` and `slen > 0`; the same expressions elsewhere are read by no rule (log 16). -/

/-- Offset of the control byte; also the number of bytes in the header span. -/
def State.ctrlOff (s : State) : Nat := 3 + s.dlen.val + s.slen.val

/-- Offset of the low byte of the header checksum. -/
def State.hcsOff (s : State) : Nat := 4 + s.dlen.val + s.slen.val

/-- The `position` at which FEED.HCS acts. -/
def State.hcsPos (s : State) : Nat := 6 + s.dlen.val + s.slen.val

/-- Bytes from the format byte through the header checksum. -/
def State.hdrTotal (s : State) : Nat := 5 + s.dlen.val + s.slen.val

/-- Offset of the first payload byte. -/
def State.payOff (s : State) : Nat := s.hdrTotal + 1

/-- Number of payload bytes: natural subtraction, which stops at 0, is the saturation of R163. -/
def State.payLen (s : State) : Nat := s.dataLength.toNat - s.hdrTotal - 2

/-- Offset of the low byte of the full checksum, `L - 1`. DESIGN CHOICE (log 16): R28 states no value of it for `L = 0`,
where this one is 0. Nothing reads it. -/
def State.fcsOff (s : State) : Nat := s.dataLength.toNat - 1

/-- The `position` at which FEED.FCS acts. -/
def State.fcsPos (s : State) : Nat := s.dataLength.toNat + 1

/-- The `position` at which FEED.STOP acts. -/
def State.stopPos (s : State) : Nat := s.dataLength.toNat + 2

/-! ## Conditions on the state -/

/-- Stale: `dataLength > 0 and position >= dataLength + 2` (R36, R122). -/
def State.stale (s : State) : Bool := decide (0 < s.dataLength.toNat) && decide (s.stopPos ≤ s.position)

/-- Full: `position >= CAP` (R36, R122). -/
def State.full (s : State) : Bool := decide (s.cap.val ≤ s.position)

/-! ## The address status outputs (R25, R26, R165) -/

/-- The destination address: absent, or `MemRead(3, dlen)`. -/
def State.destinationAddress (s : State) : Option (List Byte) :=
  if s.dlen = 0 then none else some (spanOf s.byteAt Config.addrFirst s.dlen.val)

/-- The source address: absent, or `MemRead(3 + dlen, slen)`. -/
def State.sourceAddress (s : State) : Option (List Byte) :=
  if s.slen = 0 then none else some (spanOf s.byteAt (Config.addrFirst + s.dlen.val) s.slen.val)

/-! ## Decoding a fed byte into a sub-operation -/

/-- The decode table R80, read top to bottom; rows 2 and 3 are FEED.RESTART, which goes on as R123 says. -/
def select (s : State) (b : Byte) : SubOp :=
  if s.position = 0 ∧ b ≠ Config.flag then .ignore
  else if s.stale ∨ s.full then .restart
  else if s.position = 1 ∧ b = Config.flag then .dup
  else if s.position = 0 ∧ b = Config.flag then .start
  else if s.position = 1 ∧ b ≠ Config.flag then .fmt
  else if s.position = 2 then .len
  else if 3 ≤ s.position ∧ s.dlen.val = 0 then .dst
  else if 0 < s.dlen.val ∧ s.slen.val = 0 then .src
  else if 0 < s.slen.val ∧ s.position + 1 = s.hcsPos then .hcs
  else if 0 < s.slen.val ∧ s.position + 1 = s.fcsPos then .fcs
  else if 0 < s.slen.val ∧ s.position + 1 = s.stopPos then .stop
  else .store

/-- The offset a FEED of `b` stores to, if it stores at all (R80: rows 3 and 5 to 13; R125). -/
def storeOffset (s : State) (b : Byte) : Option Nat :=
  match select s b with
  | .ignore => none
  | .dup => none
  | .restart => if b = Config.flag then some 0 else none
  | .start => some s.position
  | .fmt => some s.position
  | .len => some s.position
  | .dst => some s.position
  | .src => some s.position
  | .hcs => some s.position
  | .fcs => some s.position
  | .stop => some s.position
  | .store => some s.position

end Sys2Proof.Machine
end

