-- ==== Sys2Proof/Machine/Flags.lean ====
section
/-! DEFINITION. The block's flag and condition computations: the cause of a pre-reset (R122), the numeric codes of the
causes (R192) and reasons (R179), and the `valid` bit (R179). -/

namespace Sys2Proof.Machine

/-- The cause the pre-reset reports (R122): a delivered frame is released without a cause. -/
def preResetCause (s : State) : DropCause :=
  if s.complete then .none else if s.stale then .short else .overflow

/-- The codes of R192. -/
def DropCause.code : DropCause → Nat
  | .none => 0
  | .format => 1
  | .dstLong => 2
  | .srcLong => 3
  | .overflow => 4
  | .hcs => 5
  | .fcs => 6
  | .stop => 7
  | .short => 8

/-- The codes of R179. -/
def Reason.code : Reason → Nat
  | .ok => 0
  | .noStartFlag => 1
  | .tooShort => 2
  | .addressUnterminated => 3
  | .hcs => 4
  | .fcs => 5

/-- `valid` is true for the reason OK alone (R179). -/
def Reason.valid (r : Reason) : Bool := r == .ok

end Sys2Proof.Machine
end

