-- ==== Sys2Proof/Machine/Checksum.lean ====
section
/-! DEFINITION. The Checksum Engine: CRC16.TABLE, CRCSTEP, CRC16 and the check predicate (40_checksum.md). -/

namespace Sys2Proof.Machine

/-- One pass of the table construction's loop (R101): `t` is the working copy of the index. -/
def crcTableLoop : Nat → Word16 → Byte → Word16
  | 0, value, _ => value
  | k + 1, value, t =>
    crcTableLoop k
      (if ((value ^^^ t.setWidth 16) &&& 1#16) = 1#16 then (value >>> 1) ^^^ Config.crcPoly else value >>> 1)
      (t >>> 1)

/-- `table[i]` (R101): eight passes from 0. -/
def crcTable (i : Byte) : Word16 := crcTableLoop 8 0x0000#16 i

/-- `CRCSTEP(fcs, b) = (fcs >> 8) XOR table[(fcs XOR b) & 0xFF]` (R102). -/
def crcStep (fcs : Word16) (b : Byte) : Word16 :=
  (fcs >>> 8) ^^^ crcTable (((fcs ^^^ b.setWidth 16) &&& 0x00FF#16).setWidth 8)

/-- The checksum of a list of bytes (R104): seed, one CRCSTEP a byte, final XOR. -/
def crcOf (bytes : List Byte) : Word16 := bytes.foldl crcStep Config.crcInit ^^^ Config.crcXorOut

/-- `CRC16(source, start, n)` (R104). -/
def crcSpan (at_ : Nat → Byte) (start n : Nat) : Word16 := crcOf (spanOf at_ start n)

/-- `STOREDCRC(source, pos)` (R106). -/
def storedCrc (at_ : Nat → Byte) (pos : Nat) : Word16 := littleEndian (at_ (pos + 1)) (at_ (pos + 2))

/-- `CHECK(source, n)` (R107). -/
def crcCheck (at_ : Nat → Byte) (n : Nat) : Bool := crcSpan at_ 1 n == storedCrc at_ n

/-- A byte sequence as a source of bytes. Every offset a rule reads is below its length (R178). -/
def listAt (buf : List Byte) (i : Nat) : Byte := buf.getD i 0x00#8

/-- CRC16 (R104). The span must lie within the byte sequence: the spec says `refuse` for any other (U4, log 9). -/
def execCrc16 (bytes : List Byte) (start length : Nat) (s : State) : Host.Outcome State Fault Refusal :=
  if start + length ≤ bytes.length then .next { s with output := .word (crcSpan (listAt bytes) start length) }
  else .refused .spanOutOfBounds

/-- CRCSTEP (R102). -/
def execCrcstep (fcs : Word16) (b : Byte) (s : State) : Host.Outcome State Fault Refusal :=
  .next { s with output := .word (crcStep fcs b) }

/-- CRC16.TABLE (R101). The spec calls it a constant function, not an operation of the host (log 8). -/
def execCrc16Table (i : Byte) (s : State) : Host.Outcome State Fault Refusal :=
  .next { s with output := .word (crcTable i) }

end Sys2Proof.Machine
end

