-- ==== Sys2Proof/Machine/Bulk.lean ====
section
/-! DEFINITION. ISVALID, the Bulk Frame Validator (43_bulk_validator.md). -/

namespace Sys2Proof.Machine

/-- The length of the address field at the head of `bytes`, its terminal byte included; none where the bytes end
first (R177, R178 (c)). -/
def addressLength : List Byte → Option Nat
  | [] => none
  | b :: t => if odd b then some 1 else (addressLength t).map (· + 1)

/-- `SCAN(buf, n)` (R177): the offset of the control byte, or none for ADDRESS_UNTERMINATED. -/
def scan (buf : List Byte) : Option Nat :=
  match addressLength (buf.drop 3) with
  | none => none
  | some d =>
    match addressLength (buf.drop (3 + d)) with
    | none => none
    | some s => some (3 + d + s)

/-- The last tests of R176: the bound check on the header checksum, then checks 3 and 4. -/
def judgeChecksums (buf : List Byte) (L hl : Nat) : Reason :=
  if hl + 2 ≥ buf.length then .tooShort
  else if crcCheck (listAt buf) hl = false then .hcs
  else if crcCheck (listAt buf) (L - 2) = false then .fcs
  else .ok

/-- The tests of R176 in their order, after the length `L` is known. -/
def judgeLength (buf : List Byte) (L : Nat) : Reason :=
  if buf.length < L + 2 then .tooShort
  else if L < 2 then .tooShort
  else
    match scan buf with
    | none => .addressUnterminated
    | some hl => judgeChecksums buf L hl

/-- ISVALID's reason (R176, R178, R179). -/
def judge (buf : List Byte) : Reason :=
  if buf.length = 0 then .tooShort
  else if listAt buf 0 ≠ Config.flag then .noStartFlag
  else if buf.length < 3 then .tooShort
  else judgeLength buf (assembleLength (listAt buf 1) (listAt buf 2)).toNat

/-- ISVALID (R176). -/
def execIsvalid (buf : List Byte) (s : State) : Host.Outcome State Fault Refusal :=
  .next { s with output := .verdict (judge buf).valid (judge buf) }

end Sys2Proof.Machine
end

