-- ==== Sys2Proof/Machine/Feed.lean ====
section
/-! DEFINITION. FEED and its sub-operations (41_feed.md). A function named `act…` is what a sub-operation does, applied
where its rule applies it: after the store for those that store. -/

namespace Sys2Proof.Machine

/-! ## What each sub-operation does -/

/-- FEED.IGNORE (R121): no state written. -/
def actIgnore (s : State) : State := s.answer false .none

/-- FEED.DUP (R124): no state written, the byte is not stored. -/
def actDup (s : State) : State := s.answer false .none

/-- FEED.START (R127), after the store; the cause is that of the pre-reset, if there was one. -/
def actStart (cause : DropCause) (s : State) : State := s.answer false cause

/-- FEED.FMT (R128), after the store. -/
def actFmt (b : Byte) (s : State) : State :=
  if b &&& Config.fmtMask ≠ Config.fmtValid then s.drop .format
  else State.answer { s with frameFormatType := b &&& Config.fmtMask } false .none

/-- FEED.LEN (R129), after the store: offsets 1 and 2 hold the length. -/
def actLen (s : State) : State :=
  State.answer { s with dataLength := assembleLength (s.byteAt 1) (s.byteAt 2) } false .none

/-- FEED.DST (R130), after the store. -/
def actDst (b : Byte) (s : State) : State :=
  if s.position - 3 > Config.addrMax then s.drop .dstLong
  else if odd b then State.answer { s with dlen := Fin.ofNat 4 (s.position - 3) } false .none
  else s.answer false .none

/-- FEED.SRC (R131), after the store. -/
def actSrc (b : Byte) (s : State) : State :=
  if s.position - 3 - s.dlen.val > Config.addrMax then s.drop .srcLong
  else if odd b then State.answer { s with slen := Fin.ofNat 4 (s.position - 3 - s.dlen.val) } false .none
  else s.answer false .none

/-- FEED.HCS (R132), after the store: the span ends two bytes before the byte just stored. -/
def actHcs (s : State) : State :=
  if crcCheck s.byteAt (s.position - 3) then s.answer false .none else s.drop .hcs

/-- FEED.FCS (R133), after the store. -/
def actFcs (s : State) : State :=
  if crcCheck s.byteAt (s.position - 3) then s.answer false .none else s.drop .fcs

/-- FEED.STOP (R134), after the store. -/
def actStop (b : Byte) (s : State) : State :=
  if b = Config.flag then State.answer { s with complete := true } true .none else s.drop .stop

/-- FEED.STORE (R135), after the store. -/
def actStore (s : State) : State := s.answer false .none

/-- What follows a pre-reset (R123): the Idle rule, with the pre-reset's cause on the output. -/
def actRestart (b : Byte) (s : State) : State :=
  if b ≠ Config.flag then s.clear.answer false (preResetCause s)
  else actStart (preResetCause s) (s.clear.store b)

/-! ## The whole algorithm (R136) -/

/-- The dispatch after the store (R126): a strict priority on the new `position`. -/
def afterStore (b : Byte) (s : State) : State :=
  if s.position = 1 then actStart .none s
  else if s.position = 2 then actFmt b s
  else if s.position = 3 then actLen s
  else if s.dlen.val = 0 then actDst b s
  else if s.slen.val = 0 then actSrc b s
  else if s.position = s.hcsPos then actHcs s
  else if s.position = s.fcsPos then actFcs s
  else if s.position = s.stopPos then actStop b s
  else actStore s

/-- FEED as R136 states it in one piece: the Idle filter, the pre-reset, the duplicate flag, the store, the dispatch. -/
def feedByte (b : Byte) (s : State) : State :=
  if s.position = 0 ∧ b ≠ Config.flag then actIgnore s
  else if s.stale ∨ s.full then actRestart b s
  else if s.position = 1 ∧ b = Config.flag then actDup s
  else afterStore b (s.store b)

/-- Run a sub-operation where its row of R80 selects it, and nowhere else (log 7). -/
def whenSelected (sub : SubOp) (b : Byte) (s t : State) : Host.Outcome State Fault Refusal :=
  if select s b = sub then .next t else .refused (.notSelected sub)

/-! ## The meanings -/

/-- FEED (R120, R136). -/
def execFeed (b : Byte) (s : State) : Host.Outcome State Fault Refusal := .next (feedByte b s)

/-- FEED.IGNORE (R121). -/
def execFeedIgnore (b : Byte) (s : State) : Host.Outcome State Fault Refusal :=
  whenSelected .ignore b s (actIgnore s)

/-- FEED.RESTART, with the handling of the byte that follows it (R122, R123). -/
def execFeedRestart (b : Byte) (s : State) : Host.Outcome State Fault Refusal :=
  whenSelected .restart b s (actRestart b s)

/-- FEED.DUP (R124). -/
def execFeedDup (b : Byte) (s : State) : Host.Outcome State Fault Refusal :=
  whenSelected .dup b s (actDup s)

/-- FEED.START (R125, R127). -/
def execFeedStart (b : Byte) (s : State) : Host.Outcome State Fault Refusal :=
  whenSelected .start b s (actStart .none (s.store b))

/-- FEED.FMT (R125, R128). -/
def execFeedFmt (b : Byte) (s : State) : Host.Outcome State Fault Refusal :=
  whenSelected .fmt b s (actFmt b (s.store b))

/-- FEED.LEN (R125, R129). -/
def execFeedLen (b : Byte) (s : State) : Host.Outcome State Fault Refusal :=
  whenSelected .len b s (actLen (s.store b))

/-- FEED.DST (R125, R130). -/
def execFeedDst (b : Byte) (s : State) : Host.Outcome State Fault Refusal :=
  whenSelected .dst b s (actDst b (s.store b))

/-- FEED.SRC (R125, R131). -/
def execFeedSrc (b : Byte) (s : State) : Host.Outcome State Fault Refusal :=
  whenSelected .src b s (actSrc b (s.store b))

/-- FEED.HCS (R125, R132). -/
def execFeedHcs (b : Byte) (s : State) : Host.Outcome State Fault Refusal :=
  whenSelected .hcs b s (actHcs (s.store b))

/-- FEED.FCS (R125, R133). -/
def execFeedFcs (b : Byte) (s : State) : Host.Outcome State Fault Refusal :=
  whenSelected .fcs b s (actFcs (s.store b))

/-- FEED.STOP (R125, R134). -/
def execFeedStop (b : Byte) (s : State) : Host.Outcome State Fault Refusal :=
  whenSelected .stop b s (actStop b (s.store b))

/-- FEED.STORE (R125, R135). -/
def execFeedStore (b : Byte) (s : State) : Host.Outcome State Fault Refusal :=
  whenSelected .store b s (actStore (s.store b))

end Sys2Proof.Machine
end

