-- ==== Sys2Proof/Machine/Query.lean ====
section
/-! DEFINITION. CLEAR and GETRAW (42_query_and_clear.md). -/

namespace Sys2Proof.Machine

/-- CLEAR (R160): `Clear()`, no output. -/
def execClear (s : State) : Host.Outcome State Fault Refusal := .next { s.clear with output := .none }

/-- The payload slice of a complete frame (R162, R163). -/
def payloadSlice (s : State) : Slice := ⟨s.payOff, s.payLen, spanOf s.byteAt s.payOff s.payLen⟩

/-- GETRAW (R162): absent without a complete frame. A slice outside the buffer is read by no rule (R55, log 10). -/
def execGetraw (s : State) : Host.Outcome State Fault Refusal :=
  if s.complete = false then .next { s with output := .raw none }
  else if s.spanInBuffer s.payOff s.payLen then .next { s with output := .raw (some (payloadSlice s)) }
  else .fault (.outsideBuffer s.payOff s.payLen)

end Sys2Proof.Machine
end

