-- ==== Sys2Proof/Machine/Dispatch.lean ====
section
/-! DEFINITION. One arm per instruction. -/

namespace Sys2Proof.Machine

def exec (i : Instr) (s : State) : Host.Outcome State Fault Refusal :=
  match i with
  | .clear => Sys2Proof.Machine.execClear s
  | .feed b => Sys2Proof.Machine.execFeed b s
  | .getraw => Sys2Proof.Machine.execGetraw s
  | .crc16 bytes start length => Sys2Proof.Machine.execCrc16 bytes start length s
  | .crcstep fcs b => Sys2Proof.Machine.execCrcstep fcs b s
  | .crc16Table index => Sys2Proof.Machine.execCrc16Table index s
  | .isvalid buf => Sys2Proof.Machine.execIsvalid buf s
  | .feedIgnore b => Sys2Proof.Machine.execFeedIgnore b s
  | .feedRestart b => Sys2Proof.Machine.execFeedRestart b s
  | .feedDup b => Sys2Proof.Machine.execFeedDup b s
  | .feedStart b => Sys2Proof.Machine.execFeedStart b s
  | .feedFmt b => Sys2Proof.Machine.execFeedFmt b s
  | .feedLen b => Sys2Proof.Machine.execFeedLen b s
  | .feedDst b => Sys2Proof.Machine.execFeedDst b s
  | .feedSrc b => Sys2Proof.Machine.execFeedSrc b s
  | .feedHcs b => Sys2Proof.Machine.execFeedHcs b s
  | .feedFcs b => Sys2Proof.Machine.execFeedFcs b s
  | .feedStop b => Sys2Proof.Machine.execFeedStop b s
  | .feedStore b => Sys2Proof.Machine.execFeedStore b s

end Sys2Proof.Machine
end

