-- ==== Sys2Proof/Machine/Step.lean ====
section
/-! DEFINITION. One step: the next request of the host (R5), executed whole. -/

namespace Sys2Proof.Machine

/-- One step. Without a request nothing happens: the passage of time alone never changes the state (R200). A request is
taken whole, its bytes leave the inbox, and its operation is executed (R54 (d), R56). -/
def step (s : State) : Host.Outcome State Fault Refusal :=
  if s.idle then .next s
  else
    match s.fetch with
    | .ok i rest => exec i { s with inbox := rest }
    | .rejected why => .refused (.badRequest why)

/-- `s` with one request for a word of the operation table placed before the requests already waiting (log 6). -/
def State.withFetchWord (s : State) (nbits w : Nat) : State := { s with inbox := requestBytes nbits w ++ s.inbox }

end Sys2Proof.Machine
end

