-- ==== Sys2Proof/Safety.lean ====
section
/-! DEFINITION. What claims about a run are stated in: the invariants of every reachable state (R39), sequences of FEEDs,
clean states (R140), and the frames the wire format describes (R70). -/

namespace Sys2Proof.Machine

/-! ## The invariants of R39 -/

/-- The clauses (a) to (m) of R39, with the two that the buffer's representation adds and the one that makes them
inductive. -/
structure State.Inv (s : State) : Prop where
  /-- The buffer is in canonical form. -/
  canonical : Memory.wf s.buffer = true
  /-- The buffer holds no offset beyond `CAP-1` (R21, R55). -/
  within : Memory.within s.buffer s.cap.val = true
  /-- R39 (a). -/
  bound : s.position ≤ s.cap.val
  /-- R39 (b). -/
  fresh : s.position ≤ 1 →
    s.frameFormatType = 0x00#8 ∧ s.dataLength = 0#12 ∧ s.dlen = 0 ∧ s.slen = 0 ∧ s.complete = false
  /-- R39 (c). -/
  startFlag : 1 ≤ s.position → s.byteAt 0 = Config.flag
  /-- R39 (d). -/
  format : 2 ≤ s.position → s.frameFormatType = Config.fmtValid ∧ s.byteAt 1 &&& Config.fmtMask = Config.fmtValid
  /-- R39 (e), before the length is captured. -/
  noLength : s.position = 2 → s.dataLength = 0#12
  /-- R39 (e), after it. -/
  lengthCaptured : 3 ≤ s.position → s.dataLength = assembleLength (s.byteAt 1) (s.byteAt 2)
  /-- R39 (f). -/
  dstKnown : 0 < s.dlen.val → 3 + s.dlen.val ≤ s.position ∧ odd (s.byteAt (3 + s.dlen.val - 1)) = true ∧
    ∀ i, i < s.dlen.val - 1 → odd (s.byteAt (3 + i)) = false
  /-- R39 (g). -/
  dstPending : s.dlen.val = 0 → s.slen.val = 0 ∧ s.position ≤ 6 ∧
    ∀ i, 3 ≤ i → i < s.position → odd (s.byteAt i) = false
  /-- R39 (h). -/
  srcKnown : 0 < s.slen.val → 0 < s.dlen.val ∧ 3 + s.dlen.val + s.slen.val ≤ s.position ∧
    odd (s.byteAt (3 + s.dlen.val + s.slen.val - 1)) = true ∧
    ∀ i, i < s.slen.val - 1 → odd (s.byteAt (3 + s.dlen.val + i)) = false
  /-- R39 (i). -/
  srcPending : 0 < s.dlen.val → s.slen.val = 0 → s.position ≤ 6 + s.dlen.val ∧
    ∀ i, 3 + s.dlen.val ≤ i → i < s.position → odd (s.byteAt i) = false
  /-- R39 (j). -/
  notBeyondStop : 0 < s.dataLength.toNat → s.position ≤ s.stopPos
  /-- R39 (k). -/
  headerChecked : 0 < s.dlen.val → 0 < s.slen.val → s.hcsPos ≤ s.position → crcCheck s.byteAt s.ctrlOff = true
  /-- R39 (l). -/
  completed : s.complete = true → 0 < s.dataLength.toNat ∧ s.position = s.stopPos ∧
    s.byteAt (s.dataLength.toNat + 1) = Config.flag ∧ 0 < s.dlen.val ∧ 0 < s.slen.val ∧
    2 + s.dlen.val + s.slen.val ≤ s.dataLength.toNat ∧ s.dataLength.toNat ≠ 4 + s.dlen.val + s.slen.val ∧
    s.dataLength.toNat ≠ 6 + s.dlen.val + s.slen.val
  /-- R39 (m). -/
  completedChecked : s.complete = true → 5 + s.dlen.val + s.slen.val ≤ s.dataLength.toNat →
    crcCheck s.byteAt (s.dataLength.toNat - 2) = true
  /-- The model's own clause (R138): an attempt past `fcsPos` has passed the comparison there, which makes (l) and (m)
  inductive. -/
  frameChecked : 0 < s.dlen.val → 0 < s.slen.val → 3 + s.dlen.val + s.slen.val ≤ s.dataLength.toNat →
    s.fcsPos ≤ s.position → crcCheck s.byteAt (s.dataLength.toNat - 2) = true

/-- The condition of the pre-reset, as R122 writes it. -/
def State.mustRestart (s : State) : Prop :=
  (0 < s.dataLength.toNat ∧ s.dataLength.toNat + 2 ≤ s.position) ∨ s.cap.val ≤ s.position

/-- The cause the pre-reset reports, as R122 writes it. -/
def State.restartCause (s : State) : DropCause :=
  if s.complete then .none
  else if 0 < s.dataLength.toNat ∧ s.dataLength.toNat + 2 ≤ s.position then .short else .overflow

/-- `s` with every register at its reset value (R31, R32), the given buffer and the given output. -/
def State.emptied (s : State) (buffer : Memory) (output : Output) : State :=
  { s with buffer := buffer, position := 0, frameFormatType := 0x00#8, dataLength := 0#12, dlen := 0, slen := 0,
           complete := false, output := output }

/-- `n` bytes from `start` on form an address field: the last one odd, every other even (R75). -/
def AddressAt (at_ : Nat → Byte) (start n : Nat) : Prop :=
  1 ≤ n ∧ odd (at_ (start + n - 1)) = true ∧ ∀ i, i < n - 1 → odd (at_ (start + i)) = false

/-- `t` is `s` but for buffer bytes at offsets that are not below `position` (R38). -/
def State.AgreesBelow (s t : State) : Prop :=
  t = { s with buffer := t.buffer } ∧ ∀ a, a < s.position → t.byteAt a = s.byteAt a

/-- A clean state (R140). -/
def State.clean (s : State) : Bool := decide (s.position ≤ 1) || s.complete || s.stale || s.full

/-! ## Sequences of FEEDs -/

/-- One FEED for each byte, in order: the outputs, and the state after the last. None where one of them stops. -/
def feedAll : List Byte → State → Option (List Output × State)
  | [], s => some ([], s)
  | b :: t, s =>
    match exec (.feed b) s with
    | .next s' => (feedAll t s').map fun r => (s'.output :: r.1, r.2)
    | .fault _ => none
    | .refused _ => none

/-! ## Frames on the wire (R70 to R79) -/

/-- An address field: 1 to 3 bytes, the last one odd and every other even (R75). -/
def addressField (a : List Byte) : Bool :=
  decide (a.length ≤ Config.addrMax) && a.dropLast.all (fun b => !odd b) && (a.getLast?.map odd).getD false

/-- The fields of a frame that the sender chooses. -/
structure Frame where
  destination : List Byte
  source      : List Byte
  control     : Byte
  payload     : List Byte
deriving DecidableEq, Repr

/-- The two address fields have the form of R75. -/
def Frame.addressed (f : Frame) : Bool := addressField f.destination && addressField f.source

/-- A 16-bit value as two bytes, low byte first (R52 (a)). -/
def wordBytes (w : Word16) : List Byte := [w.setWidth 8, (w >>> 8).setWidth 8]

/-- Format byte and length low byte of a frame whose length field is `L` (R72 to R74). -/
def lengthBytes (L : Nat) : List Byte :=
  [Config.fmtValid ||| BitVec.ofNat 8 (L / 256), BitVec.ofNat 8 (L % 256)]

/-- Fields 2 to 6 of R70: the header span. -/
def Frame.header (f : Frame) (L : Nat) : List Byte := lengthBytes L ++ f.destination ++ f.source ++ [f.control]

/-- `L` of the regular form: fields 2 to 9 of R70. -/
def Frame.length (f : Frame) : Nat := 7 + f.destination.length + f.source.length + f.payload.length

/-- Fields 2 to 8 of R70: the span of the full checksum. -/
def Frame.body (f : Frame) : List Byte :=
  f.header f.length ++ wordBytes (crcOf (f.header f.length)) ++ f.payload

/-- A frame of the regular form on the wire (R70). -/
def Frame.wire (f : Frame) : List Byte := Config.flag :: (f.body ++ wordBytes (crcOf f.body) ++ [Config.flag])

/-- `L` of the form with a single checksum and no payload (R138 (g)). -/
def Frame.bareLength (f : Frame) : Nat := 5 + f.destination.length + f.source.length

/-- The frame of the form with a single checksum, its payload left out (R138 (g)). -/
def Frame.bareWire (f : Frame) : List Byte :=
  Config.flag :: (f.header f.bareLength ++ wordBytes (crcOf (f.header f.bareLength)) ++ [Config.flag])

/-- The length field of a frame sent in one of R140's two regular forms: `bare` is the one with a single checksum. -/
def Frame.lengthAs (f : Frame) (bare : Bool) : Nat := if bare then f.bareLength else f.length

/-- The bytes of a frame sent in one of R140's two regular forms. -/
def Frame.wireAs (f : Frame) (bare : Bool) : List Byte := if bare then f.bareWire else f.wire

/-- A frame of the regular form as it arrives with another payload of the same length and another full checksum. -/
def Frame.damagedWire (f : Frame) (payload : List Byte) (checksum : Word16) : List Byte :=
  Config.flag :: (f.header f.length ++ wordBytes (crcOf (f.header f.length)) ++ payload ++ wordBytes checksum ++
    [Config.flag])

end Sys2Proof.Machine
end

