-- ==== Sys2Proof/Certificates/Slice0/Obligations.lean ====
section
/-! DEFINITION. The statements for the provers. Each docstring names the rule of spec/ it formalises, and the log entry
where a clause is the model's choice. -/

open Sys2Proof Sys2Proof.Machine

/-! ## Steps, reset, requests -/

/-- R5, R54 (d), R56: a step executes the next operation of the host, whole. The byte form of the request is the model's
(log 4, 5). -/
def Obligations.StepExecutesTheNextRequest : Prop :=
  ∀ (s : State) (i : Instr) (rest : List Byte),
    decode s.inbox = .ok i rest → step s = exec i { s with inbox := rest }

/-- R200: without an operation nothing changes (log 4). -/
def Obligations.StepWithoutRequestChangesNothing : Prop :=
  ∀ s : State, s.inbox = [] → step s = .next s

/-- The model's choice (log 5): bytes that are no request are refused by name. -/
def Obligations.StepRefusesBytesThatAreNoRequest : Prop :=
  ∀ (s : State) (why : DecodeError),
    s.inbox ≠ [] → decode s.inbox = .rejected why → step s = .refused (.badRequest why)

/-- R32, R220: the register values after reset, and that CLEAR leaves the same ones. The buffer, the output and the inbox
at reset are the model's (log 2, 3, 4), and so is that CAP has no value but its bound (log 1). -/
def Obligations.ResetIsTheEmptyFrame : Prop :=
  State.reset.position = 0 ∧ State.reset.dataLength = 0#12 ∧ State.reset.frameFormatType = 0x00#8 ∧
  State.reset.dlen = 0 ∧ State.reset.slen = 0 ∧ State.reset.complete = false ∧ 3 ≤ State.reset.cap.val ∧
  State.reset.buffer = [] ∧ State.reset.output = .none ∧ State.reset.inbox = [] ∧
  ∀ s t : State, exec .clear s = .next t →
    t.position = State.reset.position ∧ t.dataLength = State.reset.dataLength ∧
    t.frameFormatType = State.reset.frameFormatType ∧ t.dlen = State.reset.dlen ∧ t.slen = State.reset.slen ∧
    t.complete = State.reset.complete

/-- R39: the invariants hold after reset, for every capacity. -/
def Obligations.ResetMeetsTheInvariants : Prop :=
  State.reset.Inv ∧ ∀ cap : Config.Capacity, (State.empty cap).Inv

/-- R39: every step keeps the invariants, from every state that meets them. -/
def Obligations.StepKeepsTheInvariants : Prop :=
  ∀ s t : State, s.Inv → step s = .next t → t.Inv

/-- The model's request bytes (log 5): decoding an encoded well-formed instruction gives it back, with the bytes that
follow it. -/
def Obligations.DecodeOfEncodeIsTheInstruction : Prop :=
  ∀ (i : Instr) (rest : List Byte), i.wellFormed = true → decode (encode i ++ rest) = .ok i rest

/-- The model's request bytes (log 5): every request has one meaning, and it is a well-formed instruction. -/
def Obligations.DecodedBytesAreTheEncoding : Prop :=
  ∀ (bytes rest : List Byte) (i : Instr),
    decode bytes = .ok i rest → i.wellFormed = true ∧ bytes = encode i ++ rest

/-- Words written out by hand: bits 7..0 are the fed byte, to which the table's match and mask apply (R80, R87); the rest
is the model's (log 5, 6). -/
def Obligations.RequestWordsDecode : Prop :=
  decodeTableWord 8 0x7E = some (.feed 0x7E) ∧ decodeTableWord 8 0xA0 = some (.feed 0xA0) ∧
  decode [0x00, 0x10] = .ok .clear [] ∧ decode [0x00, 0x11, 0x55] = .ok .getraw [0x55] ∧
  decode [0xA0, 0x13, 0x34, 0x12] = .ok (.crcstep 0x1234 0xA0) [] ∧
  decode [0x5F, 0x14] = .ok (.crc16Table 0x5F) [] ∧
  decode [0x00, 0x12, 0x01, 0x00, 0x01, 0x00, 0x01, 0x7E, 0x01, 0xA0, 0x00] = .ok (.crc16 [0x7E, 0xA0] 1 1) [] ∧
  decode [0x00, 0x15, 0x01, 0x7E, 0x00] = .ok (.isvalid [0x7E]) [] ∧
  decode [0x7E, 0x04] = .ok (.feedStart 0x7E) [] ∧ decode [0xA3, 0x05] = .ok (.feedFmt 0xA3) [] ∧
  decode [0x55, 0x04] = .rejected .byteMismatch ∧ decode [0x00, 0x30] = .rejected .unknownSelector

/-! ## Frames common to all instructions -/

/-- R7: no instruction changes the capacity. The request bytes are the step's alone (log 4). -/
def Obligations.ExecKeepsCapacityAndRequests : Prop :=
  ∀ (i : Instr) (s t : State), exec i s = .next t → t.cap = s.cap ∧ t.inbox = s.inbox

/-- R20, R191: no operation reads the outputs of an earlier one (log 3). -/
def Obligations.OutputsAreNeverRead : Prop :=
  ∀ (i : Instr) (s : State) (o : Output),
    (∀ t, exec i s = .next t → exec i { s with output := o } = .next t) ∧
    (∀ r, exec i s = .fault r → exec i { s with output := o } = .fault r) ∧
    (∀ r, exec i s = .refused r → exec i { s with output := o } = .refused r)

/-- R9, R54 (b), (c): CRC16, CRCSTEP, CRC16.TABLE, ISVALID and GETRAW change no register and no byte of the buffer; only
the output is new. -/
def Obligations.PureOperationsOnlyAnswer : Prop :=
  ∀ (i : Instr) (s t : State),
    (i = .getraw ∨ (∃ bytes start length, i = .crc16 bytes start length) ∨ (∃ fcs b, i = .crcstep fcs b) ∨
      (∃ index, i = .crc16Table index) ∨ ∃ buf, i = .isvalid buf) →
    exec i s = .next t → t = { s with output := t.output } ∧ ∀ a, t.byteAt a = s.byteAt a

/-- The model's own form of R21's buffer: buffers in canonical form that read the same at every offset are equal data. -/
def Obligations.CanonicalBuffersAreEqualData : Prop :=
  ∀ m m' : Memory, Memory.wf m = true → Memory.wf m' = true → (∀ a, Memory.read m a = Memory.read m' a) → m = m'

/-! ## The Checksum Engine -/

/-- R101: CRC16.TABLE answers the table's entry; it equals the more common construction, and the corner cases hold. -/
def Obligations.TableEntries : Prop :=
  (∀ (index : Byte) (s : State), ∃ v : Word16, exec (.crc16Table index) s = .next { s with output := .word v } ∧
    v = (fun x : Word16 => if x.getLsbD 0 then (x >>> 1) ^^^ 0x8408#16 else x >>> 1)^[8] (index.setWidth 16)) ∧
  crcTable 0 = 0x0000 ∧ crcTable 1 = 0x1189 ∧ crcTable 128 = 0x8408 ∧ crcTable 255 = 0x0F78

/-- R102: CRCSTEP. -/
def Obligations.CrcstepIsTheTableStep : Prop :=
  ∀ (fcs : Word16) (b : Byte) (s : State),
    exec (.crcstep fcs b) s =
      .next { s with output := .word ((fcs >>> 8) ^^^ crcTable ((fcs ^^^ b.setWidth 16).setWidth 8)) }

/-- R103: CRCSTEP equals the bit-serial form. -/
def Obligations.CrcstepIsBitSerial : Prop :=
  ∀ (fcs : Word16) (b : Byte) (s : State),
    ∃ v : Word16, exec (.crcstep fcs b) s = .next { s with output := .word v } ∧
      v = (fun x : Word16 => if x.getLsbD 0 then (x >>> 1) ^^^ 0x8408#16 else x >>> 1)^[8] (fcs ^^^ b.setWidth 16)

/-- R104, R105: CRC16 is the running register over the span, seeded and finally XORed with FFFF. `run` is the sequence of
the register's values: each is what CRCSTEP answers for the one before it and the next byte. -/
def Obligations.ChecksumIsTheRunningRegister : Prop :=
  ∀ (bytes : List Byte) (start length : Nat) (s : State), start + length ≤ bytes.length →
    ∃ run : Nat → Word16, run 0 = 0xFFFF#16 ∧
      (∀ k, k < length → exec (.crcstep (run k) (bytes.getD (start + k) 0)) s =
        .next { s with output := .word (run (k + 1)) }) ∧
      exec (.crc16 bytes start length) s = .next { s with output := .word (run length ^^^ 0xFFFF#16) }

/-- U4 of 93_implementation_defined.md: a span beyond the byte sequence is refused (log 9). -/
def Obligations.ChecksumOutsideItsBytesIsRefused : Prop :=
  ∀ (bytes : List Byte) (start length : Nat) (s : State),
    bytes.length < start + length → exec (.crc16 bytes start length) s = .refused .spanOutOfBounds

/-- R110 (a), (b): for a fixed register CRCSTEP is injective in the byte, and for a fixed byte in the register. -/
def Obligations.CrcstepIsInjective : Prop :=
  (∀ (fcs : Word16) (b b' : Byte), crcStep fcs b = crcStep fcs b' → b = b') ∧
  (∀ (fcs fcs' : Word16) (b : Byte), crcStep fcs b = crcStep fcs' b → fcs = fcs')

/-- R110 (c): two byte sequences that differ in exactly one byte have different checksums. -/
def Obligations.OneChangedByteChangesTheChecksum : Prop :=
  ∀ (before after : List Byte) (b b' : Byte), b ≠ b' → crcOf (before ++ b :: after) ≠ crcOf (before ++ b' :: after)

/-- R109: the residue of a message followed by its own checksum, low byte first. -/
def Obligations.ResidueIsConstant : Prop :=
  ∀ m : List Byte, crcOf (m ++ wordBytes (crcOf m)) = 0x0F47#16

/-- R52 (a), R106: a stored checksum is little-endian. -/
def Obligations.StoredChecksumIsLittleEndian : Prop :=
  ∀ (buf : Nat → Byte) (pos : Nat), (storedCrc buf pos).toNat = (buf (pos + 1)).toNat + 256 * (buf (pos + 2)).toNat

/-! ## FEED, one sub-operation at a time -/

/-- R121: in Idle a byte that is not the flag changes nothing. -/
def Obligations.IdleIgnoresOtherBytes : Prop :=
  ∀ (s : State) (b : Byte), s.position = 0 → b ≠ 0x7E →
    exec (.feed b) s = .next { s with output := .feed false .none } ∧
    exec (.feedIgnore b) s = .next { s with output := .feed false .none }

/-- R122, R123: under FEED a stale or full reader is cleared first, then the byte is handled as in Idle; the cause is
reported. That FEED.RESTART, named by itself, ignores or stores the byte too is the model's choice (log 7): in the spec it
is the pre-reset alone, followed by FEED.IGNORE or FEED.START (R80 rows 2 and 3). -/
def Obligations.EndedAttemptIsClearedFirst : Prop :=
  ∀ (s : State) (b : Byte), s.mustRestart →
    ∃ t, exec (.feed b) s = .next t ∧ exec (.feedRestart b) s = .next t ∧
      (b ≠ 0x7E → t = s.emptied s.buffer (.feed false s.restartCause)) ∧
      (b = 0x7E → t = { s.emptied (Memory.write s.buffer 0 0x7E) (.feed false s.restartCause) with position := 1 })

/-- R124: a duplicate start flag changes nothing. -/
def Obligations.DuplicateFlagIsAbsorbed : Prop :=
  ∀ (s : State) (b : Byte), s.position = 1 → b = 0x7E →
    exec (.feed b) s = .next { s with output := .feed false .none } ∧
    exec (.feedDup b) s = .next { s with output := .feed false .none }

/-- R125, R127: in Idle the flag starts an attempt. -/
def Obligations.FlagStartsAnAttempt : Prop :=
  ∀ (s : State) (b : Byte), s.position = 0 → b = 0x7E →
    exec (.feed b) s =
      .next { s with buffer := Memory.write s.buffer 0 0x7E, position := 1, output := .feed false .none } ∧
    exec (.feedStart b) s =
      .next { s with buffer := Memory.write s.buffer 0 0x7E, position := 1, output := .feed false .none }

/-- R128: the format byte. -/
def Obligations.FormatByteIsChecked : Prop :=
  ∀ (s : State) (b : Byte), s.position = 1 → b ≠ 0x7E →
    ∃ t, exec (.feed b) s = .next t ∧ exec (.feedFmt b) s = .next t ∧
      (b &&& 0xF0 = 0xA0 → t = { s with buffer := Memory.write s.buffer 1 b, position := 2, frameFormatType := 0xA0,
                                        output := .feed false .none }) ∧
      (b &&& 0xF0 ≠ 0xA0 → t = s.emptied (Memory.write s.buffer 1 b) (.feed false .format))

/-- R129, R74: the length is the low nibble of the byte at offset 1, then the byte at offset 2. -/
def Obligations.LengthIsCaptured : Prop :=
  ∀ (s : State) (b : Byte), s.position = 2 →
    ∃ t, exec (.feed b) s = .next t ∧ exec (.feedLen b) s = .next t ∧
      t = { s with buffer := Memory.write s.buffer 2 b, position := 3,
                   dataLength := BitVec.ofNat 12 (256 * ((s.byteAt 1).toNat % 16) + b.toNat),
                   output := .feed false .none }

/-- R130: destination address accumulation; the fourth byte drops, whatever its parity. -/
def Obligations.DestinationByteIsHandled : Prop :=
  ∀ (s : State) (b : Byte), ¬s.mustRestart → 3 ≤ s.position → s.dlen = 0 →
    ∃ t, exec (.feed b) s = .next t ∧ exec (.feedDst b) s = .next t ∧
      (3 < s.position - 2 → t = s.emptied (Memory.write s.buffer s.position b) (.feed false .dstLong)) ∧
      (∀ n : Fin 4, n.val = s.position - 2 → b.getLsbD 0 = true →
        t = { s with buffer := Memory.write s.buffer s.position b, position := s.position + 1, dlen := n,
                     output := .feed false .none }) ∧
      (s.position - 2 ≤ 3 → b.getLsbD 0 = false →
        t = { s with buffer := Memory.write s.buffer s.position b, position := s.position + 1,
                     output := .feed false .none })

/-- R131: source address accumulation, by the same rule, after the destination address. -/
def Obligations.SourceByteIsHandled : Prop :=
  ∀ (s : State) (b : Byte), ¬s.mustRestart → 0 < s.dlen.val → 3 + s.dlen.val ≤ s.position → s.slen = 0 →
    ∃ t, exec (.feed b) s = .next t ∧ exec (.feedSrc b) s = .next t ∧
      (3 < s.position - 2 - s.dlen.val →
        t = s.emptied (Memory.write s.buffer s.position b) (.feed false .srcLong)) ∧
      (∀ n : Fin 4, n.val = s.position - 2 - s.dlen.val → b.getLsbD 0 = true →
        t = { s with buffer := Memory.write s.buffer s.position b, position := s.position + 1, slen := n,
                     output := .feed false .none }) ∧
      (s.position - 2 - s.dlen.val ≤ 3 → b.getLsbD 0 = false →
        t = { s with buffer := Memory.write s.buffer s.position b, position := s.position + 1,
                     output := .feed false .none })

/-- R132: the header checksum, over the `3 + dlen + slen` bytes from offset 1, when its second byte arrives. -/
def Obligations.HeaderChecksumIsChecked : Prop :=
  ∀ (s : State) (b : Byte), ¬s.mustRestart → 0 < s.dlen.val → 0 < s.slen.val →
    s.position + 1 = 6 + s.dlen.val + s.slen.val →
    ∃ t, exec (.feed b) s = .next t ∧ exec (.feedHcs b) s = .next t ∧
      (crcSpan s.byteAt 1 (3 + s.dlen.val + s.slen.val) = littleEndian (s.byteAt (s.position - 1)) b →
        t = { s with buffer := Memory.write s.buffer s.position b, position := s.position + 1,
                     output := .feed false .none }) ∧
      (crcSpan s.byteAt 1 (3 + s.dlen.val + s.slen.val) ≠ littleEndian (s.byteAt (s.position - 1)) b →
        t = s.emptied (Memory.write s.buffer s.position b) (.feed false .hcs))

/-- R133: the full checksum, over the `dataLength - 2` bytes from offset 1, when its second byte arrives. -/
def Obligations.FullChecksumIsChecked : Prop :=
  ∀ (s : State) (b : Byte), ¬s.mustRestart → 0 < s.dlen.val → 0 < s.slen.val →
    3 + s.dlen.val + s.slen.val ≤ s.position → s.position + 1 ≠ 6 + s.dlen.val + s.slen.val →
    s.position + 1 = s.dataLength.toNat + 1 →
    ∃ t, exec (.feed b) s = .next t ∧ exec (.feedFcs b) s = .next t ∧
      (crcSpan s.byteAt 1 (s.dataLength.toNat - 2) = littleEndian (s.byteAt (s.dataLength.toNat - 1)) b →
        t = { s with buffer := Memory.write s.buffer s.position b, position := s.position + 1,
                     output := .feed false .none }) ∧
      (crcSpan s.byteAt 1 (s.dataLength.toNat - 2) ≠ littleEndian (s.byteAt (s.dataLength.toNat - 1)) b →
        t = s.emptied (Memory.write s.buffer s.position b) (.feed false .fcs))

/-- R134: the byte at the stop position completes the frame or drops it. -/
def Obligations.StopByteIsChecked : Prop :=
  ∀ (s : State) (b : Byte), ¬s.mustRestart → 0 < s.dlen.val → 0 < s.slen.val →
    3 + s.dlen.val + s.slen.val ≤ s.position → s.position + 1 ≠ 6 + s.dlen.val + s.slen.val →
    s.position + 1 = s.dataLength.toNat + 2 →
    ∃ t, exec (.feed b) s = .next t ∧ exec (.feedStop b) s = .next t ∧
      (b = 0x7E → t = { s with buffer := Memory.write s.buffer s.position b, position := s.position + 1,
                               complete := true, output := .feed true .none }) ∧
      (b ≠ 0x7E → t = s.emptied (Memory.write s.buffer s.position b) (.feed false .stop))

/-- R135: every other byte of an attempt is stored, whatever its value. -/
def Obligations.OtherBytesAreStored : Prop :=
  ∀ (s : State) (b : Byte), ¬s.mustRestart → 0 < s.dlen.val → 0 < s.slen.val →
    3 + s.dlen.val + s.slen.val ≤ s.position → s.position + 1 ≠ 6 + s.dlen.val + s.slen.val →
    s.position + 1 ≠ s.dataLength.toNat + 1 → s.position + 1 ≠ s.dataLength.toNat + 2 →
    exec (.feed b) s = .next { s with buffer := Memory.write s.buffer s.position b, position := s.position + 1,
                                      output := .feed false .none } ∧
    exec (.feedStore b) s = .next { s with buffer := Memory.write s.buffer s.position b, position := s.position + 1,
                                           output := .feed false .none }

/-! ## FEED as a whole -/

/-- R80, R136: the algorithm of FEED in one piece is the sub-operation that the decode table selects. -/
def Obligations.FeedIsTheSelectedSubOperation : Prop :=
  ∀ (s : State) (b : Byte), exec (.feed b) s = exec ((select s b).instr b) s

/-- The model's choice (log 7): a sub-operation named where the decode table does not select it is refused. -/
def Obligations.SubOperationElsewhereIsRefused : Prop :=
  ∀ (s : State) (b : Byte) (sub : SubOp), sub ≠ select s b → exec (sub.instr b) s = .refused (.notSelected sub)

/-- R6, R120, R137: FEED always completes, with its two outputs, and `done` excludes a cause. -/
def Obligations.FeedIsTotal : Prop :=
  ∀ (s : State) (b : Byte), ∃ t done cause, exec (.feed b) s = .next t ∧ t.output = .feed done cause ∧
    (done = true → cause = .none ∧ b = 0x7E ∧ t.complete = true ∧ s.position + 1 = s.dataLength.toNat + 2 ∧
      s.position + 1 ≠ 6 + s.dlen.val + s.slen.val ∧ 0 < s.dlen.val ∧ 0 < s.slen.val ∧ ¬s.mustRestart)

/-- R54 (a), R125: a FEED writes the offset `storeOffset` computes and no other byte of the buffer; where it stores
nothing, every byte is as before. -/
def Obligations.FeedWritesOneByteAtMost : Prop :=
  ∀ (s t : State) (b : Byte), exec (.feed b) s = .next t →
    (∀ a, storeOffset s b = some a → t.byteAt a = b ∧ (a = s.position ∨ a = 0 ∧ s.mustRestart) ∧
      ∀ x, x ≠ a → t.byteAt x = s.byteAt x) ∧
    (storeOffset s b = none → ∀ x, t.byteAt x = s.byteAt x)

/-- R140 (f), (h): how a FEED moves the cursor, and that it stays within the buffer. -/
def Obligations.FeedMovesTheCursor : Prop :=
  ∀ (s t : State) (b : Byte), exec (.feed b) s = .next t →
    (t.position = s.position ∨ t.position = s.position + 1 ∨ t.position = 0 ∨
      t.position = 1 ∧ b = 0x7E ∧ s.mustRestart) ∧
    (s.position ≤ s.cap.val → t.position ≤ s.cap.val)

/-- R192: the exact condition of every cause, in every state that meets the invariants. -/
def Obligations.DropCausesAreExact : Prop :=
  ∀ (s t : State) (b : Byte) (done : Bool) (cause : DropCause),
    s.Inv → exec (.feed b) s = .next t → t.output = .feed done cause →
    (cause = .format ↔ s.position = 1 ∧ b ≠ 0x7E ∧ b &&& 0xF0 ≠ 0xA0) ∧
    (cause = .dstLong ↔ ¬s.mustRestart ∧ s.position + 1 = 7 ∧ s.dlen = 0) ∧
    (cause = .srcLong ↔ ¬s.mustRestart ∧ 0 < s.dlen.val ∧ s.slen = 0 ∧ s.position + 1 = 7 + s.dlen.val) ∧
    (cause = .overflow ↔ s.cap.val ≤ s.position ∧ s.complete = false ∧
      ¬(0 < s.dataLength.toNat ∧ s.dataLength.toNat + 2 ≤ s.position)) ∧
    (cause = .hcs ↔ ¬s.mustRestart ∧ 0 < s.dlen.val ∧ 0 < s.slen.val ∧
      s.position + 1 = 6 + s.dlen.val + s.slen.val ∧
      crcSpan s.byteAt 1 (s.position - 2) ≠ littleEndian (s.byteAt (s.position - 1)) b) ∧
    (cause = .fcs ↔ ¬s.mustRestart ∧ 0 < s.dlen.val ∧ 0 < s.slen.val ∧
      s.position + 1 = s.dataLength.toNat + 1 ∧ s.position + 1 ≠ 6 + s.dlen.val + s.slen.val ∧
      crcSpan s.byteAt 1 (s.position - 2) ≠ littleEndian (s.byteAt (s.position - 1)) b) ∧
    (cause = .stop ↔ ¬s.mustRestart ∧ 0 < s.dlen.val ∧ 0 < s.slen.val ∧
      s.position + 1 = s.dataLength.toNat + 2 ∧ s.position + 1 ≠ 6 + s.dlen.val + s.slen.val ∧ b ≠ 0x7E) ∧
    (cause = .short ↔ s.complete = false ∧ 0 < s.dataLength.toNat ∧ s.dataLength.toNat + 2 ≤ s.position)

/-- R191, R195: a drop leaves every register at its reset value, saves nothing, and consumes the byte; after the causes of
the pre-reset the byte is handled as in Idle. -/
def Obligations.DropLeavesTheResetState : Prop :=
  ∀ (s t : State) (b : Byte) (cause : DropCause),
    exec (.feed b) s = .next t → t.output = .feed false cause → cause ≠ .none →
    (cause ≠ .short → cause ≠ .overflow →
      t = s.emptied (Memory.write s.buffer s.position b) (.feed false cause)) ∧
    (cause = .short ∨ cause = .overflow →
      (b ≠ 0x7E → t = s.emptied s.buffer (.feed false cause)) ∧
      (b = 0x7E → t = { s.emptied (Memory.write s.buffer 0 b) (.feed false cause) with position := 1 }))

/-- R27: after a FEED the bit `complete` equals its output `done`. -/
def Obligations.CompleteBitIsTheLastDone : Prop :=
  ∀ (s t : State) (b : Byte) (done : Bool) (cause : DropCause),
    s.Inv → exec (.feed b) s = .next t → t.output = .feed done cause → t.complete = done

/-- R27, R137, R54 (c): `complete` rises in one place: an instruction after which it is set either found it set and changed
nothing but the output, or has just completed a frame. -/
def Obligations.CompletionHasOneSource : Prop :=
  ∀ (i : Instr) (s t : State), s.Inv → exec i s = .next t → t.complete = true →
    (s.complete = true ∧ t = { s with output := t.output }) ∨
    (s.complete = false ∧ t.output = .feed true .none ∧ t.position = s.position + 1 ∧
      s.position + 1 = s.dataLength.toNat + 2 ∧ (i = .feed 0x7E ∨ i = .feedStop 0x7E))

/-- R138: the lengths for which a frame can complete, and that it fits the buffer. -/
def Obligations.CompletionLengthClasses : Prop :=
  ∀ (s t : State) (b : Byte) (cause : DropCause),
    s.Inv → exec (.feed b) s = .next t → t.output = .feed true cause →
    (t.dataLength.toNat = 2 + t.dlen.val + t.slen.val ∨ t.dataLength.toNat = 3 + t.dlen.val + t.slen.val ∨
      t.dataLength.toNat = 5 + t.dlen.val + t.slen.val ∨ 7 + t.dlen.val + t.slen.val ≤ t.dataLength.toNat) ∧
    t.dataLength.toNat + 2 ≤ t.cap.val

/-- R124, R140 (b), (d): after a start flag any run of flags is absorbed, without completion and without drop. -/
def Obligations.FlagRunsAreAbsorbed : Prop :=
  ∀ (s : State) (n : Nat), s.position = 1 →
    feedAll (List.replicate (n + 1) 0x7E) s =
      some (List.replicate (n + 1) (.feed false .none), { s with output := .feed false .none })

/-- R196, R197: every attempt ends: within `CAP + 1` FEEDs of any bytes the reader reaches Idle or Started. -/
def Obligations.AttemptsEnd : Prop :=
  ∀ (s : State) (bytes : List Byte), bytes.length = s.cap.val + 1 →
    ∃ (k : Nat) (outs : List Output) (t : State),
      k ≤ s.cap.val + 1 ∧ feedAll (bytes.take k) s = some (outs, t) ∧ t.position ≤ 1

/-- R38: buffer bytes at or above the cursor are unobservable: two states that differ in nothing else give the same
outputs and go on agreeing, whatever is executed. -/
def Obligations.BytesAboveTheCursorAreUnobservable : Prop :=
  ∀ (i : Instr) (s t : State), s.Inv → s.AgreesBelow t →
    (∀ s', exec i s = .next s' → ∃ t', exec i t = .next t' ∧ s'.AgreesBelow t') ∧
    (∀ r, exec i s = .fault r → exec i t = .fault r) ∧
    (∀ r, exec i s = .refused r → exec i t = .refused r)

/-! ## Whole frames -/

/-- R140 (a), R70, R162, R165: a regular frame fed to a reader in a clean state returns `done = true` on its last byte and
on no other, drops nothing after its start flag, and then GETRAW and the address reads give what was sent. -/
def Obligations.RegularFrameCompletes : Prop :=
  ∀ (f : Frame) (s : State), s.Inv → s.clean = true → f.addressed = true → f.length ≤ 4095 →
    f.length + 2 ≤ s.cap.val →
    ∃ (first : DropCause) (t : State),
      feedAll f.wire s = some (.feed false first :: List.replicate f.length (.feed false .none) ++ [.feed true .none], t) ∧
      t.position = f.length + 2 ∧ t.dataLength.toNat = f.length ∧ t.complete = true ∧
      t.destinationAddress = some f.destination ∧ t.sourceAddress = some f.source ∧
      ∃ slice : Slice, exec .getraw t = .next { t with output := .raw (some slice) } ∧
        slice = ⟨6 + f.destination.length + f.source.length, f.payload.length, f.payload⟩

/-- R138 (g), R140: the form without payload and with a single checksum completes, and its payload is empty. -/
def Obligations.BareFrameCompletes : Prop :=
  ∀ (f : Frame) (s : State), s.Inv → s.clean = true → f.addressed = true → f.bareLength + 2 ≤ s.cap.val →
    ∃ (first : DropCause) (t : State),
      feedAll f.bareWire s =
        some (.feed false first :: List.replicate f.bareLength (.feed false .none) ++ [.feed true .none], t) ∧
      t.destinationAddress = some f.destination ∧ t.sourceAddress = some f.source ∧
      ∃ slice : Slice, exec .getraw t = .next { t with output := .raw (some slice) } ∧
        slice = ⟨6 + f.destination.length + f.source.length, 0, []⟩

/-- R140 (g): a regular frame with one byte of its payload changed, or with another full checksum, is dropped with cause
FCS when the second byte of the full checksum arrives, without completion. -/
def Obligations.DamagedFrameIsDropped : Prop :=
  ∀ (f : Frame) (before after : List Byte) (b b' : Byte) (payload : List Byte) (checksum : Word16) (s : State),
    s.Inv → s.clean = true → f.addressed = true → f.length ≤ 4095 → f.length + 2 ≤ s.cap.val →
    (f.payload = before ++ b :: after ∧ payload = before ++ b' :: after ∧ b ≠ b' ∧ checksum = crcOf f.body ∨
      payload = f.payload ∧ checksum ≠ crcOf f.body) →
    ∃ (first : DropCause) (t u : State),
      feedAll ((f.damagedWire payload checksum).take (f.length + 1)) s =
        some (.feed false first :: List.replicate (f.length - 1) (.feed false .none) ++ [.feed false .fcs], t) ∧
      t = t.emptied t.buffer (.feed false .fcs) ∧
      exec (.feed 0x7E) t = .next u ∧ u.output = .feed false .none ∧ u.position = 1

/-- R140 (g): a header span whose length field `L` is at least `5 + d + s` and at most `CAP - 2`, followed by another header
checksum than its own, is dropped with cause HCS when the second byte of that checksum arrives. -/
def Obligations.DamagedHeaderIsDropped : Prop :=
  ∀ (f : Frame) (L : Nat) (checksum : Word16) (s : State),
    s.Inv → s.clean = true → f.addressed = true → 5 + f.destination.length + f.source.length ≤ L → L ≤ 4095 →
    L + 2 ≤ s.cap.val → checksum ≠ crcOf (f.header L) →
    ∃ (first : DropCause) (t : State),
      feedAll (0x7E :: (f.header L ++ wordBytes checksum)) s =
        some (.feed false first :: List.replicate (4 + f.destination.length + f.source.length) (.feed false .none) ++
          [.feed false .hcs], t) ∧
      t = t.emptied t.buffer (.feed false .hcs)

/-- R140 (c), for frames with both checksums (`L >= 7 + d + s`): fed back to back, each with its own start flag and its own
stop flag, they give exactly one completion each, and after the first start flag no drop. Frames with `L = 5 + d + s`, which
R140 counts as regular too, are in `FramesOfBothFormsAllComplete`. -/
def Obligations.BackToBackFramesAllComplete : Prop :=
  ∀ (fs : List Frame) (s : State), s.Inv → s.clean = true →
    (∀ f ∈ fs, f.addressed = true ∧ f.length ≤ 4095 ∧ f.length + 2 ≤ s.cap.val) →
    ∃ (outs : List Output) (t : State), feedAll (fs.flatMap Frame.wire) s = some (outs, t) ∧
      outs.count (.feed true .none) = fs.length ∧
      ∀ o ∈ outs.drop 1, o = .feed false .none ∨ o = .feed true .none

/-! ## CLEAR, GETRAW, address reads -/

/-- R160: CLEAR writes the registers and nothing else, is idempotent, and afterwards GETRAW answers absent. -/
def Obligations.ClearReinitialises : Prop :=
  ∀ s : State,
    exec .clear s = .next (s.emptied s.buffer .none) ∧
    exec .clear (s.emptied s.buffer .none) = .next (s.emptied s.buffer .none) ∧
    exec .getraw (s.emptied s.buffer .none) = .next (s.emptied s.buffer (.raw none))

/-- R162, R163: GETRAW. A slice that leaves the buffer, in a state no run reaches, is the model's fault (log 10). -/
def Obligations.GetrawAnswersThePayload : Prop :=
  ∀ s : State,
    (s.complete = false → exec .getraw s = .next { s with output := .raw none }) ∧
    (∀ start len : Nat, s.complete = true → start = 6 + s.dlen.val + s.slen.val →
      (7 + s.dlen.val + s.slen.val ≤ s.dataLength.toNat → len + (7 + s.dlen.val + s.slen.val) = s.dataLength.toNat) →
      (s.dataLength.toNat < 7 + s.dlen.val + s.slen.val → len = 0) →
      (len = 0 ∨ start + len ≤ s.cap.val →
        exec .getraw s = .next { s with output := .raw (some ⟨start, len, spanOf s.byteAt start len⟩) }) ∧
      (len ≠ 0 → s.cap.val < start + len → exec .getraw s = .fault (.outsideBuffer start len)))

/-- R164, R222: the window in which GETRAW answers a payload opens with `done = true`, lasts over any number of GETRAWs,
and the next FEED of any byte ends it. -/
def Obligations.PayloadWindow : Prop :=
  ∀ (s t : State) (b : Byte), s.Inv → exec (.feed b) s = .next t →
    (∀ cause, t.output = .feed true cause →
      ∃ slice, exec .getraw t = .next { t with output := .raw (some slice) } ∧
        exec .getraw { t with output := .raw (some slice) } = .next { t with output := .raw (some slice) }) ∧
    (∀ cause, t.output = .feed false cause → exec .getraw t = .next { t with output := .raw none }) ∧
    (s.complete = true → t.complete = false ∧ t.position ≤ 1)

/-- R25, R26, R165: what the address status outputs hold. -/
def Obligations.AddressReads : Prop :=
  ∀ s : State, s.Inv →
    (s.dlen = 0 → s.destinationAddress = none) ∧ (s.slen = 0 → s.sourceAddress = none) ∧
    (0 < s.dlen.val → s.destinationAddress = some (spanOf s.byteAt 3 s.dlen.val) ∧ AddressAt s.byteAt 3 s.dlen.val) ∧
    (0 < s.slen.val → s.sourceAddress = some (spanOf s.byteAt (3 + s.dlen.val) s.slen.val) ∧
      AddressAt s.byteAt (3 + s.dlen.val) s.slen.val)

/-! ## ISVALID -/

/-- R177: SCAN finds the control byte, `3 + d + s` with `d` and `s` the lengths up to the first odd byte, or reports an
unterminated address; it limits neither length. -/
def Obligations.ScanFindsTheControlByte : Prop :=
  ∀ (buf : List Byte) (hl : Nat),
    (scan buf = some hl ↔ ∃ d s, AddressAt (fun i => buf.getD i 0) 3 d ∧
      AddressAt (fun i => buf.getD i 0) (3 + d) s ∧ 3 + d + s ≤ buf.length ∧ hl = 3 + d + s)

/-- R176, R178, R179: ISVALID always answers, and its reason is the first test that fails. -/
def Obligations.ValidatorReportsTheFirstFailure : Prop :=
  ∀ (buf : List Byte) (s : State), ∃ r : Reason,
    exec (.isvalid buf) s = .next { s with output := .verdict (decide (r = .ok)) r } ∧
    (buf = [] → r = .tooShort) ∧
    (∀ b0 t, buf = b0 :: t → b0 ≠ 0x7E → r = .noStartFlag) ∧
    (∀ t, buf = 0x7E :: t → t.length < 2 → r = .tooShort) ∧
    (∀ (b1 b2 : Byte) (t : List Byte) (L : Nat), buf = 0x7E :: b1 :: b2 :: t → L = 256 * (b1.toNat % 16) + b2.toNat →
      (buf.length < L + 2 ∨ L < 2 → r = .tooShort) ∧
      (L + 2 ≤ buf.length → 2 ≤ L →
        (scan buf = none → r = .addressUnterminated) ∧
        (∀ hl, scan buf = some hl →
          (buf.length ≤ hl + 2 → r = .tooShort) ∧
          (hl + 2 < buf.length →
            (crcSpan (fun i => buf.getD i 0) 1 hl ≠ littleEndian (buf.getD (hl + 1) 0) (buf.getD (hl + 2) 0) →
              r = .hcs) ∧
            (crcSpan (fun i => buf.getD i 0) 1 hl = littleEndian (buf.getD (hl + 1) 0) (buf.getD (hl + 2) 0) →
              (crcSpan (fun i => buf.getD i 0) 1 (L - 2) ≠ littleEndian (buf.getD (L - 1) 0) (buf.getD L 0) →
                r = .fcs) ∧
              (crcSpan (fun i => buf.getD i 0) 1 (L - 2) = littleEndian (buf.getD (L - 1) 0) (buf.getD L 0) →
                r = .ok))))))

/-- R180 (a), (b): a frame the reader has completed is valid for ISVALID when `dataLength >= 5 + d + s`, and too short
otherwise. -/
def Obligations.CompletedFrameIsValid : Prop :=
  ∀ s u : State, s.Inv → s.complete = true →
    (5 + s.dlen.val + s.slen.val ≤ s.dataLength.toNat →
      exec (.isvalid (spanOf s.byteAt 0 s.position)) u = .next { u with output := .verdict true .ok }) ∧
    (s.dataLength.toNat < 5 + s.dlen.val + s.slen.val →
      exec (.isvalid (spanOf s.byteAt 0 s.position)) u = .next { u with output := .verdict false .tooShort })

/-! ## Frames of both regular forms -/

/-- R140 (c) and (a), for any mixture of R140's two regular forms (`true`: `L = 5 + d + s` and a single checksum; `false`:
`L >= 7 + d + s`): fed back to back they give exactly one completion each, the last one on the last byte, and after the
first start flag no drop. -/
def Obligations.FramesOfBothFormsAllComplete : Prop :=
  ∀ (fs : List (Frame × Bool)) (s : State), s.Inv → s.clean = true →
    (∀ f ∈ fs, f.1.addressed = true ∧ f.1.lengthAs f.2 ≤ 4095 ∧ f.1.lengthAs f.2 + 2 ≤ s.cap.val) →
    ∃ (outs : List Output) (t : State),
      feedAll (fs.flatMap fun f => f.1.wireAs f.2) s = some (outs, t) ∧
      outs.count (.feed true .none) = fs.length ∧
      (∀ o ∈ outs.drop 1, o = .feed false .none ∨ o = .feed true .none) ∧
      (fs ≠ [] → outs.getLast? = some (.feed true .none) ∧ t.complete = true)
end

