-- ==== Sys2Proof/Laws/State.lean ====
section
/-! SUPPORT. One lemma per field and update of State: no later proof unfolds a record update. -/

namespace Sys2Proof.Machine

@[simp] theorem State.clear_cap (s : State) : (s.clear).cap = s.cap := rfl
@[simp] theorem State.clear_buffer (s : State) : (s.clear).buffer = s.buffer := rfl
@[simp] theorem State.clear_position (s : State) : (s.clear).position = 0 := rfl
@[simp] theorem State.clear_frameFormatType (s : State) : (s.clear).frameFormatType = 0x00#8 := rfl
@[simp] theorem State.clear_dataLength (s : State) : (s.clear).dataLength = 0#12 := rfl
@[simp] theorem State.clear_dlen (s : State) : (s.clear).dlen = 0 := rfl
@[simp] theorem State.clear_slen (s : State) : (s.clear).slen = 0 := rfl
@[simp] theorem State.clear_complete (s : State) : (s.clear).complete = false := rfl
@[simp] theorem State.clear_output (s : State) : (s.clear).output = s.output := rfl
@[simp] theorem State.clear_inbox (s : State) : (s.clear).inbox = s.inbox := rfl

@[simp] theorem State.answer_cap (s : State) (done : Bool) (cause : DropCause) : (s.answer done cause).cap = s.cap := rfl
@[simp] theorem State.answer_buffer (s : State) (done : Bool) (cause : DropCause) : (s.answer done cause).buffer = s.buffer := rfl
@[simp] theorem State.answer_position (s : State) (done : Bool) (cause : DropCause) : (s.answer done cause).position = s.position := rfl
@[simp] theorem State.answer_frameFormatType (s : State) (done : Bool) (cause : DropCause) : (s.answer done cause).frameFormatType = s.frameFormatType := rfl
@[simp] theorem State.answer_dataLength (s : State) (done : Bool) (cause : DropCause) : (s.answer done cause).dataLength = s.dataLength := rfl
@[simp] theorem State.answer_dlen (s : State) (done : Bool) (cause : DropCause) : (s.answer done cause).dlen = s.dlen := rfl
@[simp] theorem State.answer_slen (s : State) (done : Bool) (cause : DropCause) : (s.answer done cause).slen = s.slen := rfl
@[simp] theorem State.answer_complete (s : State) (done : Bool) (cause : DropCause) : (s.answer done cause).complete = s.complete := rfl
@[simp] theorem State.answer_output (s : State) (done : Bool) (cause : DropCause) : (s.answer done cause).output = .feed done cause := rfl
@[simp] theorem State.answer_inbox (s : State) (done : Bool) (cause : DropCause) : (s.answer done cause).inbox = s.inbox := rfl

@[simp] theorem State.drop_cap (s : State) (cause : DropCause) : (s.drop cause).cap = s.cap := rfl
@[simp] theorem State.drop_buffer (s : State) (cause : DropCause) : (s.drop cause).buffer = s.buffer := rfl
@[simp] theorem State.drop_position (s : State) (cause : DropCause) : (s.drop cause).position = 0 := rfl
@[simp] theorem State.drop_frameFormatType (s : State) (cause : DropCause) : (s.drop cause).frameFormatType = 0x00#8 := rfl
@[simp] theorem State.drop_dataLength (s : State) (cause : DropCause) : (s.drop cause).dataLength = 0#12 := rfl
@[simp] theorem State.drop_dlen (s : State) (cause : DropCause) : (s.drop cause).dlen = 0 := rfl
@[simp] theorem State.drop_slen (s : State) (cause : DropCause) : (s.drop cause).slen = 0 := rfl
@[simp] theorem State.drop_complete (s : State) (cause : DropCause) : (s.drop cause).complete = false := rfl
@[simp] theorem State.drop_output (s : State) (cause : DropCause) : (s.drop cause).output = .feed false cause := rfl
@[simp] theorem State.drop_inbox (s : State) (cause : DropCause) : (s.drop cause).inbox = s.inbox := rfl

@[simp] theorem State.store_cap (s : State) (b : Byte) : (s.store b).cap = s.cap := rfl
@[simp] theorem State.store_buffer (s : State) (b : Byte) : (s.store b).buffer = Memory.write s.buffer s.position b := rfl
@[simp] theorem State.store_position (s : State) (b : Byte) : (s.store b).position = s.position + 1 := rfl
@[simp] theorem State.store_frameFormatType (s : State) (b : Byte) : (s.store b).frameFormatType = s.frameFormatType := rfl
@[simp] theorem State.store_dataLength (s : State) (b : Byte) : (s.store b).dataLength = s.dataLength := rfl
@[simp] theorem State.store_dlen (s : State) (b : Byte) : (s.store b).dlen = s.dlen := rfl
@[simp] theorem State.store_slen (s : State) (b : Byte) : (s.store b).slen = s.slen := rfl
@[simp] theorem State.store_complete (s : State) (b : Byte) : (s.store b).complete = s.complete := rfl
@[simp] theorem State.store_output (s : State) (b : Byte) : (s.store b).output = s.output := rfl
@[simp] theorem State.store_inbox (s : State) (b : Byte) : (s.store b).inbox = s.inbox := rfl

@[simp] theorem State.clear_byteAt (s : State) : s.clear.byteAt = s.byteAt := rfl
@[simp] theorem State.answer_byteAt (s : State) (done : Bool) (cause : DropCause) :
    (s.answer done cause).byteAt = s.byteAt := rfl
@[simp] theorem State.drop_byteAt (s : State) (cause : DropCause) : (s.drop cause).byteAt = s.byteAt := rfl

@[simp] theorem State.clear_clear (s : State) : s.clear.clear = s.clear := rfl
@[simp] theorem State.answer_clear (s : State) (done : Bool) (cause : DropCause) :
    (s.answer done cause).clear = s.clear.answer done cause := rfl

@[simp] theorem State.store_hcsPos (s : State) (b : Byte) : (s.store b).hcsPos = s.hcsPos := rfl
@[simp] theorem State.store_fcsPos (s : State) (b : Byte) : (s.store b).fcsPos = s.fcsPos := rfl
@[simp] theorem State.store_stopPos (s : State) (b : Byte) : (s.store b).stopPos = s.stopPos := rfl
@[simp] theorem State.store_ctrlOff (s : State) (b : Byte) : (s.store b).ctrlOff = s.ctrlOff := rfl
@[simp] theorem State.answer_hcsPos (s : State) (done : Bool) (cause : DropCause) :
    (s.answer done cause).hcsPos = s.hcsPos := rfl
@[simp] theorem State.answer_fcsPos (s : State) (done : Bool) (cause : DropCause) :
    (s.answer done cause).fcsPos = s.fcsPos := rfl
@[simp] theorem State.answer_stopPos (s : State) (done : Bool) (cause : DropCause) :
    (s.answer done cause).stopPos = s.stopPos := rfl
@[simp] theorem State.answer_ctrlOff (s : State) (done : Bool) (cause : DropCause) :
    (s.answer done cause).ctrlOff = s.ctrlOff := rfl

end Sys2Proof.Machine
end

