-- ==== Sys2Proof/Laws/Memory.lean ====
section
/-! SUPPORT. The laws of the frame buffer: read after write, and that a write keeps the canonical form and the bound. -/

namespace Sys2Proof.Machine

@[simp] theorem Memory.read_nil (a : Nat) : Memory.read [] a = unwrittenByte := rfl

theorem Memory.read_erase (m : Memory) (a x : Nat) :
    Memory.read (Memory.erase m a) x = if x = a then unwrittenByte else Memory.read m x := by
  induction m with
  | nil => simp [Memory.erase]
  | cons c t ih =>
    obtain ⟨k, v⟩ := c
    simp only [Memory.erase] at ih ⊢
    by_cases hk : k = a
    · subst hk
      by_cases hx : x = k
      · simp [hx] at ih ⊢; exact ih
      · simp [hx, Memory.read, Ne.symm hx] at ih ⊢; exact ih
    · simp only [List.filter_cons, bne_iff_ne, ne_eq, hk, not_false_eq_true, if_true, Memory.read, ih]
      by_cases hx : x = a
      · subst hx; simp [hk]
      · simp [hx]

theorem Memory.erase_keys (m : Memory) (a : Nat) : ∀ c ∈ Memory.erase m a, c.1 ≠ a := by
  intro c hc
  simp only [Memory.erase, List.mem_filter, bne_iff_ne] at hc
  exact hc.2

theorem Memory.read_insert (m : Memory) (a : Nat) (v : Byte) (h : ∀ c ∈ m, c.1 ≠ a) (x : Nat) :
    Memory.read (Memory.insert m a v) x = if x = a then v else Memory.read m x := by
  induction m with
  | nil => by_cases hx : x = a <;> simp [Memory.insert, Memory.read, hx, Ne.symm (a := x)]
  | cons c t ih =>
    obtain ⟨k, w⟩ := c
    have hk : k ≠ a := h (k, w) (by simp)
    have ih := ih fun c hc => h c (List.mem_cons_of_mem _ hc)
    unfold Memory.insert
    split
    · by_cases hx : x = a
      · simp [Memory.read, hx]
      · simp [Memory.read, hx, Ne.symm hx]
    · simp only [Memory.read, ih]
      by_cases hx : x = a
      · subst hx; simp [hk]
      · simp [hx]

/-- Read after write, on any memory. -/
theorem Memory.read_write (m : Memory) (a : Nat) (v : Byte) (x : Nat) :
    Memory.read (Memory.write m a v) x = if x = a then v else Memory.read m x := by
  unfold Memory.write
  split
  · rename_i h; rw [Memory.read_erase, h]
  · rw [Memory.read_insert _ _ _ (Memory.erase_keys m a), Memory.read_erase]
    split <;> rfl

@[simp] theorem Memory.read_write_same (m : Memory) (a : Nat) (v : Byte) :
    Memory.read (Memory.write m a v) a = v := by simp [Memory.read_write]

theorem Memory.read_write_other (m : Memory) (a : Nat) (v : Byte) {x : Nat} (h : x ≠ a) :
    Memory.read (Memory.write m a v) x = Memory.read m x := by simp [Memory.read_write, h]

theorem Memory.wf_cons (k : Nat) (v : Byte) (t : Memory) :
    Memory.wf ((k, v) :: t) = true ↔ v ≠ unwrittenByte ∧ (∀ c ∈ t, k < c.1) ∧ Memory.wf t = true := by
  simp [Memory.wf, and_assoc]

theorem Memory.wf_erase (m : Memory) (a : Nat) (h : Memory.wf m = true) : Memory.wf (Memory.erase m a) = true := by
  induction m with
  | nil => rfl
  | cons c t ih =>
    obtain ⟨k, v⟩ := c
    obtain ⟨hv, hk, ht⟩ := (Memory.wf_cons k v t).1 h
    simp only [Memory.erase, List.filter_cons]
    split
    · exact (Memory.wf_cons _ _ _).2 ⟨hv, fun c hc => hk c (List.mem_filter.1 hc).1, ih ht⟩
    · exact ih ht

theorem Memory.mem_insert (m : Memory) (a : Nat) (v : Byte) (c : Host.Cell) :
    c ∈ Memory.insert m a v ↔ c = (a, v) ∨ c ∈ m := by
  induction m with
  | nil => simp [Memory.insert]
  | cons d t ih =>
    obtain ⟨k, w⟩ := d
    unfold Memory.insert
    split
    · simp
    · simp only [List.mem_cons, ih]; tauto

theorem Memory.wf_insert (m : Memory) (a : Nat) (v : Byte) (hv : v ≠ unwrittenByte) (ha : ∀ c ∈ m, c.1 ≠ a)
    (h : Memory.wf m = true) : Memory.wf (Memory.insert m a v) = true := by
  induction m with
  | nil => simp [Memory.insert, Memory.wf, hv]
  | cons c t ih =>
    obtain ⟨k, w⟩ := c
    obtain ⟨hw, hk, ht⟩ := (Memory.wf_cons k w t).1 h
    have hka : k ≠ a := ha (k, w) (by simp)
    unfold Memory.insert
    split
    · rename_i hlt
      refine (Memory.wf_cons _ _ _).2 ⟨hv, ?_, h⟩
      intro c hc
      rcases List.mem_cons.1 hc with rfl | hc
      · exact hlt
      · exact lt_trans hlt (hk c hc)
    · refine (Memory.wf_cons _ _ _).2 ⟨hw, ?_, ih (fun c hc => ha c (List.mem_cons_of_mem _ hc)) ht⟩
      intro c hc
      rcases (Memory.mem_insert t a v c).1 hc with rfl | hc
      · show k < a
        omega
      · exact hk c hc

/-- A write keeps the canonical form. -/
theorem Memory.wf_write (m : Memory) (a : Nat) (v : Byte) (h : Memory.wf m = true) :
    Memory.wf (Memory.write m a v) = true := by
  unfold Memory.write
  split
  · exact Memory.wf_erase m a h
  · rename_i hv
    exact Memory.wf_insert _ _ _ hv (Memory.erase_keys m a) (Memory.wf_erase m a h)

theorem Memory.within_iff (m : Memory) (n : Nat) : Memory.within m n = true ↔ ∀ c ∈ m, c.1 < n := by
  simp [Memory.within]

/-- A write below the bound keeps the bound. -/
theorem Memory.within_write (m : Memory) (n a : Nat) (v : Byte) (h : Memory.within m n = true) (ha : a < n) :
    Memory.within (Memory.write m a v) n = true := by
  rw [Memory.within_iff] at h ⊢
  have he : ∀ c ∈ Memory.erase m a, c.1 < n := fun c hc => h c (List.mem_filter.1 hc).1
  unfold Memory.write
  split
  · exact he
  · intro c hc
    rcases (Memory.mem_insert _ _ _ c).1 hc with rfl | hc
    · exact ha
    · exact he c hc

/-- The buffer after reset is in canonical form. -/
theorem reset_buffer_wf : Memory.wf State.reset.buffer = true := rfl

/-! ## The store (R125) -/

/-- The byte at an offset after the store: the stored byte at the old `position`, every other byte as before. -/
theorem State.store_byteAt (s : State) (b : Byte) (a : Nat) :
    (s.store b).byteAt a = if a = s.position then b else s.byteAt a := Memory.read_write _ _ _ _

@[simp] theorem State.store_byteAt_position (s : State) (b : Byte) : (s.store b).byteAt s.position = b := by
  simp [State.store_byteAt]

theorem State.store_byteAt_other (s : State) (b : Byte) {a : Nat} (h : a ≠ s.position) :
    (s.store b).byteAt a = s.byteAt a := by simp [State.store_byteAt, h]

/-- A span below the store reads as before. -/
theorem spanOf_congr (f g : Nat → Byte) (start n : Nat) (h : ∀ a, start ≤ a → a < start + n → f a = g a) :
    spanOf f start n = spanOf g start n := by
  unfold spanOf
  refine List.map_congr_left fun k hk => h _ (by omega) ?_
  have := List.mem_range.1 hk
  omega

@[simp] theorem spanOf_length (f : Nat → Byte) (start n : Nat) : (spanOf f start n).length = n := by simp [spanOf]

theorem spanOf_zero (f : Nat → Byte) (start : Nat) : spanOf f start 0 = [] := rfl

theorem spanOf_succ (f : Nat → Byte) (start n : Nat) : spanOf f start (n + 1) = spanOf f start n ++ [f (start + n)] := by
  simp [spanOf, List.range_succ]

theorem spanOf_add (f : Nat → Byte) (start m n : Nat) :
    spanOf f start (m + n) = spanOf f start m ++ spanOf f (start + m) n := by
  induction n with
  | zero => simp [spanOf_zero]
  | succ n ih => rw [← Nat.add_assoc, spanOf_succ, ih, spanOf_succ, List.append_assoc, Nat.add_assoc]

end Sys2Proof.Machine
end

