-- ==== Sys2Proof/Laws/Checksum.lean ====
section
/-! SUPPORT. The laws of the Checksum Engine that later proofs cite: the running register (R105), which bytes a check
reads, two bytes as a word, and that two overlapping checks never both pass (R138 (f), (h)). -/

namespace Sys2Proof.Machine

/-! ## Two bytes as a word -/

@[simp] theorem littleEndian_lo (lo hi : Byte) : (littleEndian lo hi).setWidth 8 = lo := by
  ext i hi'
  simp [littleEndian]

@[simp] theorem littleEndian_hi (lo hi : Byte) : ((littleEndian lo hi) >>> 8).setWidth 8 = hi := by
  apply BitVec.eq_of_getLsbD_eq
  intro i hi'
  interval_cases i <;> simp [littleEndian]

theorem littleEndian_injective {lo hi lo' hi' : Byte} (h : littleEndian lo hi = littleEndian lo' hi') :
    lo = lo' ∧ hi = hi' :=
  ⟨by simpa using congrArg (BitVec.setWidth 8) h,
    by simpa using congrArg (fun w : Word16 => (w >>> 8).setWidth 8) h⟩

/-- Every word is its two bytes. -/
theorem littleEndian_split (w : Word16) : littleEndian (w.setWidth 8) ((w >>> 8).setWidth 8) = w := by
  apply BitVec.eq_of_getLsbD_eq
  intro i hi
  interval_cases i <;> simp [littleEndian]

/-! ## The running register (R105) -/

/-- The register after a list of bytes. -/
def crcRun (bytes : List Byte) : Word16 := bytes.foldl crcStep Config.crcInit

theorem crcOf_eq (bytes : List Byte) : crcOf bytes = crcRun bytes ^^^ Config.crcXorOut := rfl

@[simp] theorem crcRun_append_single (bytes : List Byte) (b : Byte) :
    crcRun (bytes ++ [b]) = crcStep (crcRun bytes) b := by simp [crcRun]

theorem crcSpan_eq (f : Nat → Byte) (start n : Nat) :
    crcSpan f start n = crcRun (spanOf f start n) ^^^ Config.crcXorOut := rfl

/-- The register one byte further. -/
theorem crcRun_span_succ (f : Nat → Byte) (start n : Nat) :
    crcRun (spanOf f start (n + 1)) = crcStep (crcRun (spanOf f start n)) (f (start + n)) := by
  rw [spanOf_succ, crcRun_append_single]

theorem crcSpan_congr (f g : Nat → Byte) (start n : Nat) (h : ∀ a, start ≤ a → a < start + n → f a = g a) :
    crcSpan f start n = crcSpan g start n := by unfold crcSpan; rw [spanOf_congr f g start n h]

/-- A check reads the offsets `1 .. n+2` and no other. -/
theorem crcCheck_congr (f g : Nat → Byte) (n : Nat) (h : ∀ a, 1 ≤ a → a ≤ n + 2 → f a = g a) :
    crcCheck f n = crcCheck g n := by
  unfold crcCheck storedCrc
  rw [crcSpan_congr f g 1 n fun a h1 h2 => h a h1 (by omega), h (n + 1) (by omega) (by omega),
    h (n + 2) (by omega) (by omega)]

/-! ## The table -/

theorem crcTable_last : crcTable 0xFF#8 = 0x0F78#16 := by decide

/-- After the low byte of its own complement the register is `(r >> 8) XOR table[0xFF]`. -/
theorem crcStep_complement_lo (r : Word16) :
    crcStep r ((r ^^^ 0xFFFF#16).setWidth 8) = (r >>> 8) ^^^ 0x0F78#16 := by
  have : (((r ^^^ ((r ^^^ 0xFFFF#16).setWidth 8).setWidth 16) &&& 0x00FF#16).setWidth 8 : Byte) = 0xFF#8 := by
    apply BitVec.eq_of_getLsbD_eq
    intro i hi
    interval_cases i <;> simp
  rw [crcStep, this, crcTable_last]

/-- Two checks whose stored fields overlap in one byte never both pass (R138 (f), (h)). -/
theorem crcCheck_overlap (f : Nat → Byte) (n : Nat) (h : crcCheck f n = true) : crcCheck f (n + 1) = false := by
  simp only [crcCheck, storedCrc, beq_iff_eq, crcSpan_eq, beq_eq_false_iff_ne, ne_eq] at h ⊢
  intro h'
  generalize hr : crcRun (spanOf f 1 n) = r at h
  have h1 : f (n + 1) = (r ^^^ 0xFFFF#16).setWidth 8 := by
    have := congrArg (BitVec.setWidth 8) h; simpa using this.symm
  have h2 : f (n + 2) = ((r ^^^ 0xFFFF#16) >>> 8).setWidth 8 := by
    have := congrArg (fun w : Word16 => (w >>> 8).setWidth 8) h; simpa using this.symm
  rw [crcRun_span_succ, hr, Nat.add_comm 1 n, h1, crcStep_complement_lo] at h'
  have h3 : f (n + 2) = (((r >>> 8) ^^^ 0x0F78#16) ^^^ 0xFFFF#16).setWidth 8 := by
    have := congrArg (BitVec.setWidth 8) h'; simpa using this.symm
  rw [h2] at h3
  have := congrArg (fun w : Byte => w.getLsbD 3) h3
  simp at this

end Sys2Proof.Machine
end

