-- ==== Sys2Proof/Laws/Feed.lean ====
section
/-! SUPPORT. What FEED can do, said once: `feedByte_cases` is the inversion lemma that later proofs cite instead of
unfolding FEED. -/

namespace Sys2Proof.Machine

theorem State.stale_iff (s : State) :
    s.stale = true ↔ 0 < s.dataLength.toNat ∧ s.dataLength.toNat + 2 ≤ s.position := by
  unfold State.stale State.stopPos
  simp

theorem State.stale_false_iff (s : State) :
    s.stale = false ↔ (0 < s.dataLength.toNat → s.position < s.dataLength.toNat + 2) := by
  unfold State.stale State.stopPos
  simp

theorem State.full_iff (s : State) : s.full = true ↔ s.cap.val ≤ s.position := by simp [State.full]

theorem State.full_false_iff (s : State) : s.full = false ↔ s.position < s.cap.val := by simp [State.full]

/-- Neither stale nor full: the byte is handled by the attempt in progress. -/
def State.open_ (s : State) : Prop := s.stale = false ∧ s.position < s.cap.val

theorem State.open_of_not (s : State) (h : ¬(s.stale = true ∨ s.full = true)) : s.open_ := by
  simp only [not_or, Bool.not_eq_true] at h
  exact ⟨h.1, s.full_false_iff.1 h.2⟩

/-- A reader whose cursor is at most 2 is neither stale nor full, once its length is not captured. -/
theorem State.open_of_early (s : State) (h : s.position ≤ 1) : s.open_ := by
  refine ⟨s.stale_false_iff.2 fun hL => by omega, ?_⟩
  have := s.cap.three_le
  omega

/-- Everything FEED can do. -/
theorem feedByte_cases {b : Byte} {s : State} {P : State → Prop}
    (ignore : s.position = 0 → b ≠ Config.flag → P (s.answer false .none))
    (release : s.stale = true ∨ s.full = true → b ≠ Config.flag → P (s.clear.answer false (preResetCause s)))
    (reopen : s.stale = true ∨ s.full = true → b = Config.flag →
      P ((s.clear.store b).answer false (preResetCause s)))
    (dup : s.position = 1 → b = Config.flag → P (s.answer false .none))
    (start : s.open_ → s.position = 0 → b = Config.flag → P ((s.store b).answer false .none))
    (fmt : s.open_ → s.position = 1 → b ≠ Config.flag → P (actFmt b (s.store b)))
    (len : s.open_ → s.position = 2 → P (actLen (s.store b)))
    (dst : s.open_ → 3 ≤ s.position → s.dlen.val = 0 → P (actDst b (s.store b)))
    (src : s.open_ → 3 ≤ s.position → 0 < s.dlen.val → s.slen.val = 0 → P (actSrc b (s.store b)))
    (hcs : s.open_ → 3 ≤ s.position → 0 < s.dlen.val → 0 < s.slen.val → s.position + 1 = s.hcsPos →
      P (actHcs (s.store b)))
    (fcs : s.open_ → 3 ≤ s.position → 0 < s.dlen.val → 0 < s.slen.val → s.position + 1 ≠ s.hcsPos →
      s.position + 1 = s.fcsPos → P (actFcs (s.store b)))
    (stop : s.open_ → 3 ≤ s.position → 0 < s.dlen.val → 0 < s.slen.val → s.position + 1 ≠ s.hcsPos →
      s.position + 1 = s.stopPos → P (actStop b (s.store b)))
    (store : s.open_ → 3 ≤ s.position → 0 < s.dlen.val → 0 < s.slen.val → s.position + 1 ≠ s.hcsPos →
      s.position + 1 ≠ s.fcsPos → s.position + 1 ≠ s.stopPos → P ((s.store b).answer false .none)) :
    P (feedByte b s) := by
  unfold feedByte
  split
  · next h => exact ignore h.1 h.2
  next hidle =>
  split
  · next hr =>
    unfold actRestart
    split
    · next hb => exact release hr hb
    · next hb => exact reopen hr (by simpa using hb)
  next hr =>
  have ho := s.open_of_not hr
  split
  · next h => exact dup h.1 h.2
  next hdup =>
  have hq : (s.store b).position = s.position + 1 := rfl
  unfold afterStore
  split
  · next h =>
    have hp : s.position = 0 := by omega
    exact start ho hp (by simpa [hp] using hidle)
  next h1 =>
  split
  · next h =>
    have hp : s.position = 1 := by omega
    exact fmt ho hp (by simpa [hp] using hdup)
  next h2 =>
  split
  · next h => exact len ho (by omega)
  next h3 =>
  have hp : 3 ≤ s.position := by omega
  split
  · next h => exact dst ho hp h
  next hd =>
  have hd : 0 < s.dlen.val := Nat.pos_of_ne_zero hd
  split
  · next h => exact src ho hp hd h
  next hs =>
  have hs : 0 < s.slen.val := Nat.pos_of_ne_zero hs
  split
  · next h => exact hcs ho hp hd hs h
  next hh =>
  split
  · next h => exact fcs ho hp hd hs hh h
  next hf =>
  split
  · next h => exact stop ho hp hd hs hh h
  · next h => exact store ho hp hd hs hh hf h

end Sys2Proof.Machine
end

