-- ==== Sys2Proof/Laws/SubOps.lean ====
section
/-! SUPPORT. The sub-operations one by one: what each leaves in every case of its rule, and what naming one executes. -/

namespace Sys2Proof.Machine

/-! ## The cases of each rule -/

theorem actFmt_valid {b : Byte} (s : State) (h : b &&& Config.fmtMask = Config.fmtValid) :
    actFmt b s = State.answer { s with frameFormatType := Config.fmtValid } false .none := by
  unfold actFmt
  rw [if_neg (by simp [h]), h]

theorem actFmt_invalid {b : Byte} (s : State) (h : b &&& Config.fmtMask ≠ Config.fmtValid) :
    actFmt b s = s.drop .format := if_pos h

theorem actDst_long (b : Byte) {s : State} (h : 6 < s.position) : actDst b s = s.drop .dstLong := by
  unfold actDst Config.addrMax
  rw [if_pos (by omega)]

theorem actDst_last {b : Byte} {s : State} (hb : odd b = true) (n : Fin 4)
    (hn : n.val = s.position - 3) : actDst b s = State.answer { s with dlen := n } false .none := by
  have : Fin.ofNat 4 (s.position - 3) = n := by apply Fin.ext; simp; omega
  unfold actDst Config.addrMax
  rw [if_neg (by omega), if_pos hb, this]

theorem actDst_more {b : Byte} {s : State} (h : s.position ≤ 6) (hb : odd b = false) :
    actDst b s = s.answer false .none := by
  unfold actDst Config.addrMax
  rw [if_neg (by omega), if_neg (by simp [hb])]

theorem actSrc_long (b : Byte) {s : State} (h : 6 + s.dlen.val < s.position) : actSrc b s = s.drop .srcLong := by
  unfold actSrc Config.addrMax
  rw [if_pos (by omega)]

theorem actSrc_last {b : Byte} {s : State} (hb : odd b = true) (n : Fin 4)
    (hn : n.val = s.position - 3 - s.dlen.val) : actSrc b s = State.answer { s with slen := n } false .none := by
  have : Fin.ofNat 4 (s.position - 3 - s.dlen.val) = n := by apply Fin.ext; simp; omega
  unfold actSrc Config.addrMax
  rw [if_neg (by omega), if_pos hb, this]

theorem actSrc_more {b : Byte} {s : State} (h : s.position ≤ 6 + s.dlen.val) (hb : odd b = false) :
    actSrc b s = s.answer false .none := by
  unfold actSrc Config.addrMax
  rw [if_neg (by omega), if_neg (by simp [hb])]

theorem actHcs_pass {s : State} (h : crcCheck s.byteAt (s.position - 3) = true) : actHcs s = s.answer false .none :=
  if_pos h

theorem actHcs_fail {s : State} (h : ¬crcCheck s.byteAt (s.position - 3) = true) : actHcs s = s.drop .hcs := if_neg h

theorem actFcs_pass {s : State} (h : crcCheck s.byteAt (s.position - 3) = true) : actFcs s = s.answer false .none :=
  if_pos h

theorem actFcs_fail {s : State} (h : ¬crcCheck s.byteAt (s.position - 3) = true) : actFcs s = s.drop .fcs := if_neg h

theorem actStop_flag {b : Byte} (s : State) (h : b = Config.flag) :
    actStop b s = State.answer { s with complete := true } true .none := if_pos h

theorem actStop_other {b : Byte} (s : State) (h : b ≠ Config.flag) : actStop b s = s.drop .stop := if_neg h

theorem actRestart_other {b : Byte} (s : State) (h : b ≠ Config.flag) :
    actRestart b s = s.clear.answer false (preResetCause s) := if_pos h

theorem actRestart_flag {b : Byte} (s : State) (h : b = Config.flag) :
    actRestart b s = (s.clear.store b).answer false (preResetCause s) := if_neg (by simp [h])

/-- The check of a stored byte, in terms of the state before the store. -/
theorem crcCheck_store {s : State} {b : Byte} (n : Nat) (h : s.position = n + 2) :
    crcCheck (s.store b).byteAt n = true ↔ crcSpan s.byteAt 1 n = littleEndian (s.byteAt (n + 1)) b := by
  unfold crcCheck storedCrc
  rw [crcSpan_congr _ s.byteAt 1 n (fun a _ ha => s.store_byteAt_other b (by omega)),
    s.store_byteAt_other b (by omega), ← h, State.store_byteAt_position, beq_iff_eq]

/-! ## The 12-bit length -/

theorem assembleLength_toNat (f l : Byte) : (assembleLength f l).toNat = 256 * (f.toNat % 16) + l.toNat := by
  unfold assembleLength
  have := f.isLt
  have := l.isLt
  have hm : f.toNat &&& 15 = f.toNat % 16 := Nat.and_two_pow_sub_one_eq_mod f.toNat 4
  rw [BitVec.toNat_or, BitVec.toNat_shiftLeft, BitVec.toNat_setWidth, BitVec.toNat_setWidth, BitVec.toNat_and,
    show Config.lenHiMask.toNat = 15 from rfl, hm, Nat.mod_eq_of_lt (by omega : f.toNat % 16 < 2 ^ 12),
    Nat.mod_eq_of_lt (by omega : l.toNat < 2 ^ 12), Nat.shiftLeft_eq, Nat.mod_eq_of_lt (by omega), Nat.mul_comm,
    ← Nat.two_pow_add_eq_or_of_lt (by omega)]

theorem assembleLength_eq (f l : Byte) :
    assembleLength f l = BitVec.ofNat 12 (256 * (f.toNat % 16) + l.toNat) := by
  rw [← assembleLength_toNat, BitVec.ofNat_toNat, BitVec.setWidth_eq]

/-! ## The selected sub-operation -/

/-- The state a sub-operation leaves. -/
def runSub : SubOp → Byte → State → State
  | .ignore, _, s => actIgnore s
  | .restart, b, s => actRestart b s
  | .dup, _, s => actDup s
  | .start, b, s => actStart .none (s.store b)
  | .fmt, b, s => actFmt b (s.store b)
  | .len, b, s => actLen (s.store b)
  | .dst, b, s => actDst b (s.store b)
  | .src, b, s => actSrc b (s.store b)
  | .hcs, b, s => actHcs (s.store b)
  | .fcs, b, s => actFcs (s.store b)
  | .stop, b, s => actStop b (s.store b)
  | .store, b, s => actStore (s.store b)

theorem exec_feed (b : Byte) (s : State) : exec (.feed b) s = .next (feedByte b s) := rfl

/-- What naming a sub-operation executes (log 7). -/
theorem exec_sub (sub : SubOp) (b : Byte) (s : State) :
    exec (sub.instr b) s = if select s b = sub then .next (runSub sub b s) else .refused (.notSelected sub) := by
  cases sub <;> rfl

end Sys2Proof.Machine
end

