-- ==== Sys2Proof/Laws/Invariant.lean ====
section
/-! SUPPORT. The updates that keep the invariants of R39 for a reason of their own: those that write no register the
invariants mention, and `Clear()`. -/

namespace Sys2Proof.Machine

theorem State.Inv.output {s : State} (h : s.Inv) (o : Output) : State.Inv { s with output := o } :=
  ⟨h.canonical, h.within, h.bound, h.fresh, h.startFlag, h.format, h.noLength, h.lengthCaptured, h.dstKnown,
    h.dstPending, h.srcKnown, h.srcPending, h.notBeyondStop, h.headerChecked, h.completed, h.completedChecked,
    h.frameChecked⟩

theorem State.Inv.answer {s : State} (h : s.Inv) (done : Bool) (cause : DropCause) : (s.answer done cause).Inv :=
  h.output _

theorem State.Inv.inbox {s : State} (h : s.Inv) (bytes : List Byte) : State.Inv { s with inbox := bytes } :=
  ⟨h.canonical, h.within, h.bound, h.fresh, h.startFlag, h.format, h.noLength, h.lengthCaptured, h.dstKnown,
    h.dstPending, h.srcKnown, h.srcPending, h.notBeyondStop, h.headerChecked, h.completed, h.completedChecked,
    h.frameChecked⟩

/-- After `Clear()` only the clauses about the buffer say anything. -/
theorem State.clear_inv {s : State} (hc : Memory.wf s.buffer = true) (hw : Memory.within s.buffer s.cap.val = true) :
    s.clear.Inv := by
  constructor <;> simp [hc, hw]

theorem State.drop_inv {s : State} (hc : Memory.wf s.buffer = true) (hw : Memory.within s.buffer s.cap.val = true)
    (cause : DropCause) : (s.drop cause).Inv := (State.clear_inv hc hw).answer _ _

/-- The store keeps the buffer canonical and inside its capacity. -/
theorem State.Inv.store_buffer {s : State} (h : s.Inv) (hp : s.position < s.cap.val) (b : Byte) :
    Memory.wf (s.store b).buffer = true ∧ Memory.within (s.store b).buffer (s.store b).cap.val = true :=
  ⟨Memory.wf_write _ _ _ h.canonical, Memory.within_write _ _ _ _ h.within hp⟩

/-- An attempt in progress is not complete. -/
theorem State.Inv.not_complete {s : State} (h : s.Inv) (ho : s.open_) : s.complete = false := by
  by_contra hc
  obtain ⟨l1, l2, _⟩ := h.completed (by simpa using hc)
  have := s.stale_false_iff.1 ho.1 l1
  unfold State.stopPos at l2
  omega

end Sys2Proof.Machine
end

