-- ==== Sys2Proof/Laws/PerInstr.lean ====
section
/-! SUPPORT. Per-instruction statements about the request bytes (log 5). Head: the first two bytes of an encoding are the
operand byte and the selector byte. -/

namespace Sys2Proof.Laws.Head

/-- The operand byte; 0 for an operation without one. -/
def operand : Instr → Byte
  | .clear => 0#8
  | .feed b => b
  | .getraw => 0#8
  | .crc16 _ _ _ => 0#8
  | .crcstep _ b => b
  | .crc16Table i => i
  | .isvalid _ => 0#8
  | .feedIgnore b => b
  | .feedRestart b => b
  | .feedDup b => b
  | .feedStart b => b
  | .feedFmt b => b
  | .feedLen b => b
  | .feedDst b => b
  | .feedSrc b => b
  | .feedHcs b => b
  | .feedFcs b => b
  | .feedStop b => b
  | .feedStore b => b

/-- The selector byte: for a sub-operation of FEED the `order` of its row of R80. -/
def selector : Instr → Byte
  | .clear => 16#8
  | .feed _ => 0#8
  | .getraw => 17#8
  | .crc16 _ _ _ => 18#8
  | .crcstep _ _ => 19#8
  | .crc16Table _ => 20#8
  | .isvalid _ => 21#8
  | .feedIgnore _ => 1#8
  | .feedRestart _ => 2#8
  | .feedDup _ => 3#8
  | .feedStart _ => 4#8
  | .feedFmt _ => 5#8
  | .feedLen _ => 6#8
  | .feedDst _ => 7#8
  | .feedSrc _ => 8#8
  | .feedHcs _ => 9#8
  | .feedFcs _ => 10#8
  | .feedStop _ => 11#8
  | .feedStore _ => 12#8

/-- An encoding begins with the operand byte and the selector byte. -/
def Statement (i : Instr) : Prop := (encode i).take 2 = [operand i, selector i]

theorem clear : Statement .clear := rfl
theorem feed (b : Byte) : Statement (.feed b) := rfl
theorem getraw : Statement .getraw := rfl
theorem crc16 (bytes : List Byte) (start length : Nat) : Statement (.crc16 bytes start length) := rfl
theorem crcstep (fcs : Word16) (b : Byte) : Statement (.crcstep fcs b) := rfl
theorem crc16Table (i : Byte) : Statement (.crc16Table i) := rfl
theorem isvalid (buf : List Byte) : Statement (.isvalid buf) := rfl
theorem feedIgnore (b : Byte) : Statement (.feedIgnore b) := rfl
theorem feedRestart (b : Byte) : Statement (.feedRestart b) := rfl
theorem feedDup (b : Byte) : Statement (.feedDup b) := rfl
theorem feedStart (b : Byte) : Statement (.feedStart b) := rfl
theorem feedFmt (b : Byte) : Statement (.feedFmt b) := rfl
theorem feedLen (b : Byte) : Statement (.feedLen b) := rfl
theorem feedDst (b : Byte) : Statement (.feedDst b) := rfl
theorem feedSrc (b : Byte) : Statement (.feedSrc b) := rfl
theorem feedHcs (b : Byte) : Statement (.feedHcs b) := rfl
theorem feedFcs (b : Byte) : Statement (.feedFcs b) := rfl
theorem feedStop (b : Byte) : Statement (.feedStop b) := rfl
theorem feedStore (b : Byte) : Statement (.feedStore b) := rfl

end Sys2Proof.Laws.Head
end

