-- ==== Sys2Proof/Tests/Slice0.lean ====
section
/-! SUPPORT. Tests: ill-formed terms are refused, hand-written words decode, single steps of the spec's vectors
(95_test_vectors.md, whose numbers V<n> the comments cite), and for each statement with hypotheses a state and operands
that meet them. -/

namespace Sys2Proof.Tests

open Sys2Proof.Machine

/-! ## Helpers -/

/-- A capacity of `n + 3`. -/
def capOf (n : Nat) : Config.Capacity := ⟨n + 3, Nat.le_add_left 3 n⟩

/-- The buffer that holds the given bytes from offset `k` on. -/
def bufferFrom : Nat → List Byte → Memory
  | _, [] => []
  | k, b :: t => if b = 0#8 then bufferFrom (k + 1) t else (k, b) :: bufferFrom (k + 1) t

/-- A reader of capacity 256 in Idle. -/
def idle : State := State.empty (capOf 253)

/-- A reader of capacity 3 in Idle. -/
def tiny : State := State.empty (capOf 0)

/-- An attempt: the stored bytes and the captured fields. -/
def attempt (bytes : List Byte) (L : BitVec 12) (d e : Fin 4) (done : Bool) : State :=
  { idle with buffer := bufferFrom 0 bytes, position := bytes.length,
              frameFormatType := if bytes.length ≤ 1 then 0x00#8 else 0xA0#8, dataLength := L, dlen := d, slen := e,
              complete := done }

/-- The outputs of one FEED. -/
def feedOut (b : Byte) (s : State) : Output := (feedByte b s).output

/-- The numeric code of the cause of one FEED. -/
def dropCode (b : Byte) (s : State) : Nat :=
  match (feedByte b s).output with
  | .feed _ cause => cause.code
  | .none => 99
  | .raw _ => 99
  | .word _ => 99
  | .verdict _ _ => 99

/-- The registers after one FEED, as the spec's vectors write them. -/
def feedRegs (b : Byte) (s : State) : Nat × Nat × Byte × Nat × Nat × Bool :=
  let t := feedByte b s
  (t.position, t.dataLength.toNat, t.frameFormatType, t.dlen.val, t.slen.val, t.complete)

/-- Whether an instruction answers the next state `t`. -/
def leaves (r : Host.Outcome State Fault Refusal) (t : State) : Bool :=
  match r with
  | .next u => decide (u = t)
  | .fault _ => false
  | .refused _ => false

/-- V1. -/
def v1 : List Byte :=
  [0x7E, 0xA0, 0x13, 0x01, 0x02, 0x01, 0x10, 0x9B, 0x7E, 0xE6, 0xE7, 0x00, 0x0F, 0x40, 0x00, 0x00, 0x00, 0x00, 0x00, 0x06,
   0x7E]

/-- The reader after the first `n` bytes of V1, by the trace of V1. -/
def v1At (n : Nat) : State :=
  attempt (v1.take n) (if n ≤ 2 then 0#12 else 19#12) (if n ≤ 3 then 0 else 1) (if n ≤ 5 then 0 else 2) (n == 21)

/-- V20, V21, V22 after their last byte. -/
def v20 : State := attempt [0x7E, 0xA0, 0x04, 0x03, 0x05, 0x7E] 4#12 1 1 true
def v21 : State := attempt [0x7E, 0xA0, 0x05, 0x11, 0xAB, 0xB6, 0x7E] 5#12 1 1 true
def v22 : State := attempt [0x7E, 0xA0, 0x07, 0x03, 0x05, 0x10, 0xCF, 0xF3, 0x7E] 7#12 1 1 true

/-- V20, V21, V22 before their last byte. -/
def v20Open : State := attempt [0x7E, 0xA0, 0x04, 0x03, 0x05] 4#12 1 1 false
def v21Open : State := attempt [0x7E, 0xA0, 0x05, 0x11, 0xAB, 0xB6] 5#12 1 1 false
def v22Open : State := attempt [0x7E, 0xA0, 0x07, 0x03, 0x05, 0x10, 0xCF, 0xF3] 7#12 1 1 false

/-! ## WellFormed: an ill-formed term for each check -/

theorem test_wf_crc16_span : (Instr.crc16 [0x31, 0x32] 1 2).wellFormed = false := by decide
theorem test_wf_ignore_flag : (Instr.feedIgnore 0x7E).wellFormed = false := by decide
theorem test_wf_dup_other : (Instr.feedDup 0xA0).wellFormed = false := by decide
theorem test_wf_start_other : (Instr.feedStart 0x00).wellFormed = false := by decide
theorem test_wf_fmt_flag : (Instr.feedFmt 0x7E).wellFormed = false := by decide

/-! ## Decoding: words written out by hand -/

theorem test_decode_clear : decode [0x00, 0x10, 0xEE] = .ok .clear [0xEE] := by decide
theorem test_decode_feed : decode [0x7E, 0x00] = .ok (.feed 0x7E) [] := by decide
theorem test_decode_getraw : decode [0x00, 0x11] = .ok .getraw [] := by decide
theorem test_decode_crc16 :
    decode [0x00, 0x12, 0x01, 0x00, 0x01, 0x01, 0x00, 0x01, 0x7E, 0x01, 0xA0, 0x01, 0x13, 0x00] =
      .ok (.crc16 [0x7E, 0xA0, 0x13] 1 2) [] := by decide
theorem test_decode_crcstep : decode [0x56, 0x13, 0x34, 0x12] = .ok (.crcstep 0x1234 0x56) [] := by decide
theorem test_decode_crc16_table : decode [0x80, 0x14] = .ok (.crc16Table 0x80) [] := by decide
theorem test_decode_isvalid : decode [0x00, 0x15, 0x01, 0x7E, 0x01, 0xA0, 0x00] = .ok (.isvalid [0x7E, 0xA0]) [] := by
  decide
/-- The sub-operations of FEED: the fed byte, then the `order` of the row of R80. -/
theorem test_decode_sub_operations :
    decode [0x55, 0x01] = .ok (.feedIgnore 0x55) [] ∧ decode [0x7E, 0x02] = .ok (.feedRestart 0x7E) [] ∧
    decode [0x7E, 0x03] = .ok (.feedDup 0x7E) [] ∧ decode [0x7E, 0x04] = .ok (.feedStart 0x7E) [] ∧
    decode [0xA3, 0x05] = .ok (.feedFmt 0xA3) [] ∧ decode [0x13, 0x06] = .ok (.feedLen 0x13) [] ∧
    decode [0x01, 0x07] = .ok (.feedDst 0x01) [] ∧ decode [0x02, 0x08] = .ok (.feedSrc 0x02) [] ∧
    decode [0x7E, 0x09] = .ok (.feedHcs 0x7E) [] ∧ decode [0x06, 0x0A] = .ok (.feedFcs 0x06) [] ∧
    decode [0x7E, 0x0B] = .ok (.feedStop 0x7E) [] ∧ decode [0x10, 0x0C] = .ok (.feedStore 0x10) [] := by decide
theorem test_decode_rejects :
    decode [] = .rejected .truncated ∧ decode [0x00] = .rejected .truncated ∧
    decode [0x00, 0x0D] = .rejected .unknownSelector ∧ decode [0x01, 0x10] = .rejected .reservedOperand ∧
    decode [0x7E, 0x01] = .rejected .byteMismatch ∧ decode [0x00, 0x15, 0x02] = .rejected .badMarker ∧
    decode [0x00, 0x12, 0x01, 0x00, 0x00, 0x00] = .rejected .spanOutOfBounds := by decide
/-- R80, R87: bits 7..0 of a table word are the fed byte, in the first byte of the request. -/
theorem test_table_words :
    decodeTableWord 8 0x7E = some (.feed 0x7E) ∧ decodeTableWord 8 0xA0 = some (.feed 0xA0) ∧
    decodeTableWord 8 0x01 = some (.feed 0x01) := by decide
/-- V11: the word 7E as the first instruction after reset is FEED.START. -/
theorem test_first_step :
    step (State.reset.withFetchWord 8 0x7E) =
      .next { State.reset with buffer := [(0, 0x7E)], position := 1, output := .feed false .none } := by rfl

/-! ## The Checksum Engine -/

/-- R101. -/
theorem test_crc_table : crcTable 1 = 0x1189 ∧ crcTable 255 = 0x0F78 := by decide
/-- V5, V6. -/
theorem test_crcstep : crcStep 0x1234 0x56 = 0x4006 ∧ crcStep 0xF0B8 0x7E = 0xA3CA := by decide
/-- V9a: a span that does not begin at 0. -/
theorem test_crc16_span :
    leaves (execCrc16 [0x7E, 0xA0, 0x79, 0x01, 0x02, 0x01, 0x10, 0x80, 0x93] 1 6 idle)
      { idle with output := .word 0x9380 } = true := by decide
/-- V7: the empty span, at the end of its bytes. -/
theorem test_crc16_empty : leaves (execCrc16 [0x55] 1 0 idle)
      { idle with output := .word 0x0000 } = true := by decide

/-! ## FEED: single steps -/

/-- V10. -/
theorem test_ignore : leaves (execFeedIgnore 0xA0 idle)
      { idle with output := .feed false .none } = true := by decide
/-- V27b: a stale attempt and a flag. -/
theorem test_restart :
    leaves (execFeedRestart 0x7E (attempt [0x7E, 0xA0, 0x02, 0x03] 2#12 1 0 false))
      { attempt [0x7E, 0xA0, 0x02, 0x03] 0#12 0 0 false with
        position := 1, frameFormatType := 0x00, output := .feed false .short } = true := by decide
/-- V29b: a full buffer. -/
theorem test_restart_full :
    dropCode 0x00 { attempt [0x7E, 0xA1, 0x00] 256#12 0 0 false with cap := capOf 0 } = 4 := by decide
/-- V34: the release of a completed frame reports no cause. -/
theorem test_restart_release : feedOut 0x55 (v1At 21) = .feed false .none := by decide
/-- V11. -/
theorem test_dup : leaves (execFeedDup 0x7E (v1At 1))
      { v1At 1 with output := .feed false .none } = true := by decide
theorem test_start : leaves (execFeedStart 0x7E idle)
      { v1At 1 with output := .feed false .none } = true := by decide
/-- V1 trace. -/
theorem test_fmt : leaves (execFeedFmt 0xA0 (v1At 1))
      { v1At 2 with output := .feed false .none } = true := by decide
/-- V13. -/
theorem test_fmt_drop : dropCode 0x13 (v1At 1) = 1 ∧ feedRegs 0x13 (v1At 1) = (0, 0, 0x00, 0, 0, false) := by decide
/-- V13c: the low nibble of the format byte is part of the length. -/
theorem test_len : feedRegs 0xFF (attempt [0x7E, 0xAF] 0#12 0 0 false) = (3, 4095, 0xA0, 0, 0, false) := by decide
/-- V14c. -/
theorem test_dst : feedRegs 0x07 (attempt [0x7E, 0xA0, 0x13, 0x02, 0x04] 19#12 0 0 false) = (6, 19, 0xA0, 3, 0, false) := by
  decide
/-- V14: the fourth byte is odd and is still a drop. -/
theorem test_dst_long : dropCode 0x01 (attempt [0x7E, 0xA0, 0x13, 0x02, 0x04, 0x06] 19#12 0 0 false) = 2 := by decide
/-- V1 trace. -/
theorem test_src : leaves (execFeedSrc 0x01 (v1At 5))
      { v1At 6 with output := .feed false .none } = true := by decide
/-- V15. -/
theorem test_src_long :
    dropCode 0x7E (attempt [0x7E, 0xA0, 0x13, 0x01, 0x02, 0x04, 0x06] 19#12 1 0 false) = 3 := by decide
/-- V1 trace. -/
theorem test_hcs : leaves (execFeedHcs 0x7E (v1At 8))
      { v1At 9 with output := .feed false .none } = true := by decide
/-- V16. -/
theorem test_hcs_drop : dropCode 0x7F (v1At 8) = 5 := by decide
/-- V1 trace. -/
theorem test_fcs : leaves (execFeedFcs 0x06 (v1At 19))
      { v1At 20 with output := .feed false .none } = true := by decide
/-- V21b. -/
theorem test_fcs_drop : dropCode 0xB7 (attempt [0x7E, 0xA0, 0x05, 0x11, 0xAB] 5#12 1 1 false) = 6 := by decide
/-- V1 trace. -/
theorem test_stop : leaves (execFeedStop 0x7E (v1At 20))
      { v1At 21 with output := .feed true .none } = true := by decide
/-- V18. -/
theorem test_stop_drop : dropCode 0x7F (v1At 20) = 7 := by decide
/-- V1 trace. -/
theorem test_store : leaves (execFeedStore 0x10 (v1At 6))
      { v1At 7 with output := .feed false .none } = true := by decide
/-- V23: at `L = 4+d+s` the header check has priority over the stop position. -/
theorem test_priority : select (attempt [0x7E, 0xA0, 0x06, 0x03, 0x05, 0xFF, 0xF5] 6#12 1 1 false) 0x7E = .hcs := by decide
/-- V26: the cause SHORT. -/
theorem test_feed_short : dropCode 0x03 (attempt [0x7E, 0xA0, 0x01] 1#12 0 0 false) = 8 := by decide

/-! ## CLEAR, GETRAW, ISVALID -/

/-- V37. -/
theorem test_clear :
    leaves (execClear (v1At 21))
      { attempt v1 0#12 0 0 false with position := 0, frameFormatType := 0x00 } = true := by decide
/-- V33. -/
theorem test_getraw :
    leaves (execGetraw (v1At 21))
      { v1At 21 with output := .raw (some ⟨9, 9, [0xE6, 0xE7, 0x00, 0x0F, 0x40, 0x00, 0x00, 0x00, 0x00]⟩) } = true := by decide
/-- V36: a frame without payload is not absent. -/
theorem test_getraw_empty : leaves (execGetraw v22)
      { v22 with output := .raw (some ⟨8, 0, []⟩) } = true := by decide
/-- V47, V49. -/
theorem test_isvalid_ok : judge v1 = .ok ∧ judge (v1 ++ [0x01, 0x02, 0x03]) = .ok := by decide
/-- V42, V45, V50, V54. -/
theorem test_isvalid_reasons :
    judge [0x7E, 0xA0] = .tooShort ∧ judge [0x00] = .noStartFlag ∧
    judge [0x7E, 0xA0, 0x06, 0x03, 0x02, 0x02, 0x02, 0x02] = .addressUnterminated ∧
    judge [0x7E, 0xA0, 0x07, 0x03, 0x05, 0x10, 0xCF, 0xF2, 0x7E] = .hcs ∧
    judge [0x7E, 0xA0, 0x0B, 0x03, 0x05, 0x10, 0xFB, 0x64, 0xAA, 0xBB, 0x09, 0xA4, 0x7E] = .fcs ∧
    judge [0x7E, 0xA0, 0x04, 0x03, 0x05, 0x7E] = .tooShort := by decide
/-- The addresses of V1 (R165). -/
theorem test_addresses :
    (v1At 21).destinationAddress = some [0x01] ∧ (v1At 21).sourceAddress = some [0x02, 0x01] ∧
    (v1At 5).sourceAddress = none := by decide

/-! ## Witnesses: states and operands that meet the hypotheses of each statement

`witness_<Name>` stands for the statement `Obligations.<Name>`. -/

/-- The attempts that the dropping bytes of V13 to V29 end. -/
def dstFull : State := attempt [0x7E, 0xA0, 0x13, 0x02, 0x04, 0x06] 19#12 0 0 false
def srcFull : State := attempt [0x7E, 0xA0, 0x13, 0x01, 0x02, 0x04, 0x06] 19#12 1 0 false
def dstThird : State := attempt [0x7E, 0xA0, 0x13, 0x02, 0x04] 19#12 0 0 false
def srcThird : State := attempt [0x7E, 0xA0, 0x13, 0x01, 0x02, 0x04] 19#12 1 0 false
def v21Control : State := attempt [0x7E, 0xA0, 0x05, 0x11, 0xAB] 5#12 1 1 false
def stale : State := attempt [0x7E, 0xA0, 0x02, 0x03] 2#12 1 0 false
def full : State :=
  { tiny with buffer := [(0, 0x7E), (1, 0xA0), (2, 0x05)], position := 3, frameFormatType := 0xA0, dataLength := 5#12 }
/-- A state no run reaches: complete, with a payload beyond the buffer. -/
def beyond : State := { full with complete := true, dlen := 1, slen := 1, dataLength := 10#12 }

theorem inv_idle : idle.Inv := by constructor <;> decide
theorem inv_v1_1 : (v1At 1).Inv := by constructor <;> decide
theorem inv_v1_2 : (v1At 2).Inv := by constructor <;> decide
theorem inv_v1_8 : (v1At 8).Inv := by constructor <;> decide
theorem inv_v1_19 : (v1At 19).Inv := by constructor <;> decide
theorem inv_v1_20 : (v1At 20).Inv := by constructor <;> decide
theorem inv_v1_21 : (v1At 21).Inv := by constructor <;> decide
theorem inv_v20 : v20.Inv := by constructor <;> decide
theorem inv_v21 : v21.Inv := by constructor <;> decide
theorem inv_v22 : v22.Inv := by constructor <;> decide
theorem inv_v20_open : v20Open.Inv := by constructor <;> decide
theorem inv_v21_open : v21Open.Inv := by constructor <;> decide
theorem inv_v22_open : v22Open.Inv := by constructor <;> decide
theorem inv_dst_full : dstFull.Inv := by constructor <;> decide
theorem inv_src_full : srcFull.Inv := by constructor <;> decide
theorem inv_stale : stale.Inv := by constructor <;> decide
theorem inv_full : full.Inv := by constructor <;> decide

/-- What the statements about FEED with an invariant assume. -/
def FeedsTo (s : State) (b : Byte) (done : Bool) (cause : DropCause) : Prop :=
  s.Inv ∧ exec (.feed b) s = .next (feedByte b s) ∧ (feedByte b s).output = .feed done cause

theorem witness_StepExecutesTheNextRequest :
    decode ({ idle with inbox := [0x7E, 0x00, 0x01] } : State).inbox = .ok (.feed 0x7E) [0x01] := by decide

theorem witness_StepWithoutRequestChangesNothing : idle.inbox = [] := rfl

theorem witness_StepRefusesBytesThatAreNoRequest :
    ({ idle with inbox := [0x00] } : State).inbox ≠ [] ∧
      decode ({ idle with inbox := [0x00] } : State).inbox = .rejected .truncated := by decide

theorem witness_ResetIsTheEmptyFrame : ∃ t, exec .clear (v1At 21) = .next t := ⟨_, rfl⟩

theorem witness_StepKeepsTheInvariants :
    (v1At 21).Inv ∧ State.Inv { v1At 20 with inbox := [0x7E, 0x00] } ∧
      step { v1At 20 with inbox := [0x7E, 0x00] } = .next (feedByte 0x7E (v1At 20)) :=
  ⟨inv_v1_21, by constructor <;> decide, rfl⟩

theorem witness_DecodeOfEncodeIsTheInstruction :
    (Instr.crc16 [0x31, 0x32] 1 1).wellFormed = true ∧ (Instr.crc16 [] 0 0).wellFormed = true ∧
      (Instr.feedIgnore 0x7D).wellFormed = true ∧ (Instr.feedFmt 0x7F).wellFormed = true ∧
      (Instr.feedDup 0x7E).wellFormed = true ∧ (Instr.crcstep 0xFFFF 0xFF).wellFormed = true := by decide

theorem witness_DecodedBytesAreTheEncoding : decode [0x34, 0x00, 0x12] = .ok (.feed 0x34) [0x12] := by decide

theorem witness_ExecKeepsCapacityAndRequests : ∃ t, exec (.feed 0x7E) (v1At 20) = .next t := ⟨_, rfl⟩

theorem witness_OutputsAreNeverRead :
    (∃ t, exec .getraw (v1At 21) = .next t) ∧ exec .getraw beyond = .fault (.outsideBuffer 8 1) ∧
      exec (.crc16 [] 0 1) idle = .refused .spanOutOfBounds := ⟨⟨_, rfl⟩, rfl, rfl⟩

theorem witness_PureOperationsOnlyAnswer :
    (∃ t, exec .getraw (v1At 21) = .next t) ∧ (∃ t, exec (.crc16 [0x31] 0 1) idle = .next t) ∧
      (∃ t, exec (.crcstep 0xFFFF 0xA0) idle = .next t) ∧ (∃ t, exec (.crc16Table 0xFF) idle = .next t) ∧
      ∃ t, exec (.isvalid v1) idle = .next t := ⟨⟨_, rfl⟩, ⟨_, rfl⟩, ⟨_, rfl⟩, ⟨_, rfl⟩, ⟨_, rfl⟩⟩

theorem witness_CanonicalBuffersAreEqualData :
    Memory.wf [(1, 0x05)] = true ∧ Memory.wf (Memory.write (Memory.write [] 2 0x07) 1 0x05) = true ∧
      ∀ a, Memory.read [(1, 0x05), (2, 0x07)] a = Memory.read (Memory.write (Memory.write [] 2 0x07) 1 0x05) a :=
  ⟨by decide, by decide, fun _ => rfl⟩

theorem witness_ChecksumIsTheRunningRegister :
    1 + 6 ≤ ([0x7E, 0xA0, 0x13, 0x01, 0x02, 0x01, 0x10] : List Byte).length ∧ 0 + 0 ≤ ([] : List Byte).length := by decide

theorem witness_ChecksumOutsideItsBytesIsRefused : ([0x31] : List Byte).length < 1 + 1 := by decide

theorem witness_CrcstepIsInjective : crcStep 0xFFFF 0xA0 = crcStep 0xFFFF 0xA0 := rfl

theorem witness_OneChangedByteChangesTheChecksum : (0x0F : Byte) ≠ 0x8F := by decide

theorem witness_IdleIgnoresOtherBytes : idle.position = 0 ∧ (0xA0 : Byte) ≠ 0x7E := by decide

/-- Stale, full, complete; a flag and another byte. -/
theorem witness_EndedAttemptIsClearedFirst :
    stale.mustRestart ∧ full.mustRestart ∧ (v1At 21).mustRestart ∧ (0x55 : Byte) ≠ 0x7E :=
  ⟨.inl (by decide), .inr (by decide), .inl (by decide), by decide⟩

theorem witness_DuplicateFlagIsAbsorbed : (v1At 1).position = 1 := rfl

theorem witness_FlagStartsAnAttempt : idle.position = 0 := rfl

theorem witness_FormatByteIsChecked :
    (v1At 1).position = 1 ∧ (0xAF : Byte) ≠ 0x7E ∧ (0xAF : Byte) &&& 0xF0 = 0xA0 ∧ (0xB0 : Byte) ≠ 0x7E ∧
      (0xB0 : Byte) &&& 0xF0 ≠ 0xA0 := by decide

theorem witness_LengthIsCaptured : (v1At 2).position = 2 := rfl

/-- The first, the third and the fourth byte of the destination address. -/
theorem witness_DestinationByteIsHandled :
    (¬(v1At 3).mustRestart ∧ 3 ≤ (v1At 3).position ∧ (v1At 3).dlen = 0 ∧ (1 : Fin 4).val = (v1At 3).position - 2) ∧
    (¬dstThird.mustRestart ∧ dstThird.dlen = 0 ∧ (3 : Fin 4).val = dstThird.position - 2 ∧
      (0x06 : Byte).getLsbD 0 = false) ∧
    (¬dstFull.mustRestart ∧ dstFull.dlen = 0 ∧ 3 < dstFull.position - 2) := by
  unfold State.mustRestart; decide

/-- The first, the third and the fourth byte of the source address. -/
theorem witness_SourceByteIsHandled :
    (¬(v1At 4).mustRestart ∧ 0 < (v1At 4).dlen.val ∧ 3 + (v1At 4).dlen.val ≤ (v1At 4).position ∧ (v1At 4).slen = 0 ∧
      (1 : Fin 4).val = (v1At 4).position - 2 - (v1At 4).dlen.val) ∧
    (¬srcThird.mustRestart ∧ 0 < srcThird.dlen.val ∧ 3 + srcThird.dlen.val ≤ srcThird.position ∧ srcThird.slen = 0 ∧
      (3 : Fin 4).val = srcThird.position - 2 - srcThird.dlen.val ∧ (0x06 : Byte).getLsbD 0 = false) ∧
    (¬srcFull.mustRestart ∧ 0 < srcFull.dlen.val ∧ 3 + srcFull.dlen.val ≤ srcFull.position ∧ srcFull.slen = 0 ∧
      3 < srcFull.position - 2 - srcFull.dlen.val) := by
  unfold State.mustRestart; decide

theorem witness_HeaderChecksumIsChecked :
    ¬(v1At 8).mustRestart ∧ 0 < (v1At 8).dlen.val ∧ 0 < (v1At 8).slen.val ∧
      (v1At 8).position + 1 = 6 + (v1At 8).dlen.val + (v1At 8).slen.val ∧
      crcSpan (v1At 8).byteAt 1 (3 + (v1At 8).dlen.val + (v1At 8).slen.val) =
        littleEndian ((v1At 8).byteAt ((v1At 8).position - 1)) 0x7E ∧
      crcSpan (v1At 8).byteAt 1 (3 + (v1At 8).dlen.val + (v1At 8).slen.val) ≠
        littleEndian ((v1At 8).byteAt ((v1At 8).position - 1)) 0x7F := by
  unfold State.mustRestart; decide

/-- V1 at its full checksum, and V21 at the control byte's position. -/
theorem witness_FullChecksumIsChecked :
    (¬(v1At 19).mustRestart ∧ 0 < (v1At 19).dlen.val ∧ 0 < (v1At 19).slen.val ∧
      3 + (v1At 19).dlen.val + (v1At 19).slen.val ≤ (v1At 19).position ∧
      (v1At 19).position + 1 ≠ 6 + (v1At 19).dlen.val + (v1At 19).slen.val ∧
      (v1At 19).position + 1 = (v1At 19).dataLength.toNat + 1 ∧
      crcSpan (v1At 19).byteAt 1 ((v1At 19).dataLength.toNat - 2) =
        littleEndian ((v1At 19).byteAt ((v1At 19).dataLength.toNat - 1)) 0x06 ∧
      crcSpan (v1At 19).byteAt 1 ((v1At 19).dataLength.toNat - 2) ≠
        littleEndian ((v1At 19).byteAt ((v1At 19).dataLength.toNat - 1)) 0x07) ∧
    (¬v21Control.mustRestart ∧ 3 + v21Control.dlen.val + v21Control.slen.val ≤ v21Control.position ∧
      v21Control.position + 1 ≠ 6 + v21Control.dlen.val + v21Control.slen.val ∧
      v21Control.position + 1 = v21Control.dataLength.toNat + 1) := by
  unfold State.mustRestart; decide

/-- V1 at its stop flag, and V20 at the control byte's position. -/
theorem witness_StopByteIsChecked :
    (¬(v1At 20).mustRestart ∧ 0 < (v1At 20).dlen.val ∧ 0 < (v1At 20).slen.val ∧
      3 + (v1At 20).dlen.val + (v1At 20).slen.val ≤ (v1At 20).position ∧
      (v1At 20).position + 1 ≠ 6 + (v1At 20).dlen.val + (v1At 20).slen.val ∧
      (v1At 20).position + 1 = (v1At 20).dataLength.toNat + 2 ∧ (0x7F : Byte) ≠ 0x7E) ∧
    (¬v20Open.mustRestart ∧ 3 + v20Open.dlen.val + v20Open.slen.val ≤ v20Open.position ∧
      v20Open.position + 1 ≠ 6 + v20Open.dlen.val + v20Open.slen.val ∧
      v20Open.position + 1 = v20Open.dataLength.toNat + 2) := by
  unfold State.mustRestart; decide

theorem witness_OtherBytesAreStored :
    ¬(v1At 6).mustRestart ∧ 0 < (v1At 6).dlen.val ∧ 0 < (v1At 6).slen.val ∧
      3 + (v1At 6).dlen.val + (v1At 6).slen.val ≤ (v1At 6).position ∧
      (v1At 6).position + 1 ≠ 6 + (v1At 6).dlen.val + (v1At 6).slen.val ∧
      (v1At 6).position + 1 ≠ (v1At 6).dataLength.toNat + 1 ∧
      (v1At 6).position + 1 ≠ (v1At 6).dataLength.toNat + 2 := by
  unfold State.mustRestart; decide

theorem witness_SubOperationElsewhereIsRefused : SubOp.stop ≠ select idle 0x7E := by decide

theorem witness_FeedIsTotal : (feedByte 0x7E (v1At 20)).output = .feed true .none := by decide

theorem witness_FeedWritesOneByteAtMost :
    (∃ t, exec (.feed 0x10) (v1At 6) = .next t) ∧ storeOffset (v1At 6) 0x10 = some 6 ∧
      storeOffset (v1At 21) 0x7E = some 0 ∧ storeOffset (v1At 1) 0x7E = none ∧ storeOffset stale 0x55 = none :=
  ⟨⟨_, rfl⟩, by decide⟩

theorem witness_FeedMovesTheCursor : (∃ t, exec (.feed 0x7E) full = .next t) ∧ full.position ≤ full.cap.val :=
  ⟨⟨_, rfl⟩, by decide⟩

/-- Every cause is reached, from a state that meets the invariants. -/
theorem witness_DropCausesAreExact :
    FeedsTo (v1At 1) 0x13 false .format ∧ FeedsTo dstFull 0x01 false .dstLong ∧ FeedsTo srcFull 0x7E false .srcLong ∧
      FeedsTo full 0x00 false .overflow ∧ FeedsTo (v1At 8) 0x7F false .hcs ∧ FeedsTo (v1At 19) 0x07 false .fcs ∧
      FeedsTo (v1At 20) 0x7F false .stop ∧ FeedsTo stale 0x7E false .short :=
  ⟨⟨inv_v1_1, rfl, by decide⟩, ⟨inv_dst_full, rfl, by decide⟩, ⟨inv_src_full, rfl, by decide⟩,
    ⟨inv_full, rfl, by decide⟩, ⟨inv_v1_8, rfl, by decide⟩, ⟨inv_v1_19, rfl, by decide⟩, ⟨inv_v1_20, rfl, by decide⟩,
    ⟨inv_stale, rfl, by decide⟩⟩

theorem witness_DropLeavesTheResetState :
    FeedsTo (v1At 8) 0x7F false .hcs ∧ FeedsTo full 0x00 false .overflow ∧ FeedsTo stale 0x7E false .short :=
  ⟨⟨inv_v1_8, rfl, by decide⟩, ⟨inv_full, rfl, by decide⟩, ⟨inv_stale, rfl, by decide⟩⟩

theorem witness_CompleteBitIsTheLastDone :
    FeedsTo (v1At 20) 0x7E true .none ∧ FeedsTo (v1At 21) 0x7E false .none :=
  ⟨⟨inv_v1_20, rfl, by decide⟩, ⟨inv_v1_21, rfl, by decide⟩⟩

/-- One of each class of lengths: V20, V21, V22, V1. -/
theorem witness_CompletionLengthClasses :
    FeedsTo v20Open 0x7E true .none ∧ FeedsTo v21Open 0x7E true .none ∧ FeedsTo v22Open 0x7E true .none ∧
      FeedsTo (v1At 20) 0x7E true .none :=
  ⟨⟨inv_v20_open, rfl, by decide⟩, ⟨inv_v21_open, rfl, by decide⟩, ⟨inv_v22_open, rfl, by decide⟩,
    ⟨inv_v1_20, rfl, by decide⟩⟩

theorem witness_CompletionHasOneSource :
    ((v1At 20).Inv ∧ (∃ t, exec (.feed 0x7E) (v1At 20) = .next t ∧ t.complete = true)) ∧
      ((v1At 21).Inv ∧ ∃ t, exec .getraw (v1At 21) = .next t ∧ t.complete = true) :=
  ⟨⟨inv_v1_20, _, rfl, by decide⟩, inv_v1_21, _, rfl, by decide⟩

theorem witness_FlagRunsAreAbsorbed : (v1At 1).position = 1 := rfl

theorem witness_AttemptsEnd : ([0x7E, 0xA0, 0x05, 0x00] : List Byte).length = tiny.cap.val + 1 := by decide

theorem witness_BytesAboveTheCursorAreUnobservable :
    (v1At 2).Inv ∧ (v1At 2).AgreesBelow { v1At 2 with buffer := [(0, 0x7E), (1, 0xA0), (2, 0x55)] } :=
  ⟨inv_v1_2, rfl, by decide⟩

/-- Frames with the shortest and the longest addresses; the longest frame of all. -/
def shortFrame : Frame := ⟨[0x03], [0x05], 0x10, [0xAA, 0xBB]⟩
def longAddresses : Frame := ⟨[0x02, 0x04, 0x07], [0x08, 0x0A, 0x0B], 0x32, []⟩
def flagFrame (n : Nat) : Frame := ⟨[0x03], [0x05], 0x10, List.replicate n 0x7E⟩

theorem flagFrame_length (n : Nat) : (flagFrame n).length = n + 9 := by simp [Frame.length, flagFrame]; omega

/-- FA of 95_test_vectors.md. -/
theorem test_wire :
    shortFrame.wire = [0x7E, 0xA0, 0x0B, 0x03, 0x05, 0x10, 0xFB, 0x64, 0xAA, 0xBB, 0x09, 0xA5, 0x7E] := by decide
/-- V22. -/
theorem test_bare_wire : shortFrame.bareWire = [0x7E, 0xA0, 0x07, 0x03, 0x05, 0x10, 0xCF, 0xF3, 0x7E] := by decide

/-- Idle, Started, complete, stale and full readers are clean. -/
theorem witness_RegularFrameCompletes :
    (idle.Inv ∧ idle.clean = true ∧ shortFrame.addressed = true ∧ shortFrame.length ≤ 4095 ∧
      shortFrame.length + 2 ≤ idle.cap.val) ∧
    ((v1At 1).clean = true ∧ (v1At 21).clean = true ∧ stale.clean = true ∧ full.clean = true) ∧
    (longAddresses.addressed = true ∧ longAddresses.length ≤ 4095) ∧
    (State.Inv (State.empty (capOf 4094)) ∧ (State.empty (capOf 4094)).clean = true ∧ (flagFrame 4086).addressed = true ∧
      (flagFrame 4086).length ≤ 4095 ∧ (flagFrame 4086).length + 2 ≤ (State.empty (capOf 4094)).cap.val) := by
  refine ⟨⟨inv_idle, by decide⟩, by decide, by decide, by constructor <;> decide, by decide, by decide, ?_, ?_⟩
  · rw [flagFrame_length]
  · rw [flagFrame_length]; decide

theorem witness_BareFrameCompletes :
    idle.Inv ∧ idle.clean = true ∧ longAddresses.addressed = true ∧ longAddresses.bareLength + 2 ≤ idle.cap.val :=
  ⟨inv_idle, by decide⟩

/-- One changed byte of the payload, and another full checksum. -/
theorem witness_DamagedFrameIsDropped :
    idle.Inv ∧ idle.clean = true ∧ shortFrame.addressed = true ∧ shortFrame.length ≤ 4095 ∧
      shortFrame.length + 2 ≤ idle.cap.val ∧ shortFrame.payload = [0xAA] ++ 0xBB :: [] ∧ (0xBB : Byte) ≠ 0xBC ∧
      (0x0000 : Word16) ≠ crcOf shortFrame.body := ⟨inv_idle, by decide⟩

theorem witness_DamagedHeaderIsDropped :
    idle.Inv ∧ idle.clean = true ∧ shortFrame.addressed = true ∧
      5 + shortFrame.destination.length + shortFrame.source.length ≤ 7 ∧ 7 + 2 ≤ idle.cap.val ∧
      (0x0000 : Word16) ≠ crcOf (shortFrame.header 7) := ⟨inv_idle, by decide⟩

theorem witness_BackToBackFramesAllComplete :
    idle.Inv ∧ idle.clean = true ∧ ∀ f ∈ [shortFrame, longAddresses, shortFrame],
      f.addressed = true ∧ f.length ≤ 4095 ∧ f.length + 2 ≤ idle.cap.val := ⟨inv_idle, by decide⟩

/-- Both forms, in both orders. -/
theorem witness_FramesOfBothFormsAllComplete :
    idle.Inv ∧ idle.clean = true ∧ ∀ f ∈ [(shortFrame, true), (longAddresses, false), (longAddresses, true)],
      f.1.addressed = true ∧ f.1.lengthAs f.2 ≤ 4095 ∧ f.1.lengthAs f.2 + 2 ≤ idle.cap.val := ⟨inv_idle, by decide⟩

/-- Incomplete; complete with and without payload; a payload beyond the buffer. -/
theorem witness_GetrawAnswersThePayload :
    idle.complete = false ∧
    ((v1At 21).complete = true ∧ 9 = 6 + (v1At 21).dlen.val + (v1At 21).slen.val ∧
      9 + (7 + (v1At 21).dlen.val + (v1At 21).slen.val) = (v1At 21).dataLength.toNat ∧ 9 + 9 ≤ (v1At 21).cap.val) ∧
    (v20.complete = true ∧ v20.dataLength.toNat < 7 + v20.dlen.val + v20.slen.val) ∧
    (beyond.complete = true ∧ 1 + (7 + beyond.dlen.val + beyond.slen.val) = beyond.dataLength.toNat ∧
      beyond.cap.val < 8 + 1) := by decide

theorem witness_PayloadWindow :
    FeedsTo (v1At 20) 0x7E true .none ∧ FeedsTo (v1At 21) 0x7E false .none ∧ (v1At 21).complete = true :=
  ⟨⟨inv_v1_20, rfl, by decide⟩, ⟨inv_v1_21, rfl, by decide⟩, rfl⟩

theorem witness_AddressReads :
    (idle.Inv ∧ idle.dlen = 0 ∧ idle.slen = 0) ∧ ((v1At 21).Inv ∧ 0 < (v1At 21).dlen.val ∧ 0 < (v1At 21).slen.val) :=
  ⟨⟨inv_idle, by decide⟩, inv_v1_21, by decide⟩

theorem witness_ScanFindsTheControlByte :
    AddressAt (fun i => v1.getD i 0) 3 1 ∧ AddressAt (fun i => v1.getD i 0) (3 + 1) 2 ∧ 3 + 1 + 2 ≤ v1.length := by
  unfold AddressAt; decide

/-- Buffers for each clause: a wrong first byte, two bytes, `n = L+1`, `L = 1`, no address end, `n = hl+2`, the checks. -/
theorem witness_ValidatorReportsTheFirstFailure :
    ((0x00 : Byte) ≠ 0x7E ∧ ([0xA0] : List Byte).length < 2) ∧
    (19 = 256 * ((0xA0 : Byte).toNat % 16) + (0x13 : Byte).toNat ∧ (v1.take 20).length < 19 + 2 ∧
      19 + 2 ≤ v1.length) ∧
    1 = 256 * ((0xA0 : Byte).toNat % 16) + (0x01 : Byte).toNat ∧
    scan [0x7E, 0xA0, 0x06, 0x03, 0x02, 0x02, 0x02, 0x02] = none ∧
    scan [0x7E, 0xA0, 0x04, 0x03, 0x05, 0x7E] = some 5 ∧ scan v1 = some 6 ∧
    crcSpan (fun i => v1.getD i 0) 1 6 = littleEndian (v1.getD (6 + 1) 0) (v1.getD (6 + 2) 0) ∧
    crcSpan (fun i => v1.getD i 0) 1 (19 - 2) = littleEndian (v1.getD (19 - 1) 0) (v1.getD 19 0) := by decide

/-- V1 and V22 on one side of the bound, V20 and V21 on the other. -/
theorem witness_CompletedFrameIsValid :
    ((v1At 21).Inv ∧ (v1At 21).complete = true) ∧
    (v22.Inv ∧ v22.complete = true ∧ 5 + v22.dlen.val + v22.slen.val ≤ v22.dataLength.toNat) ∧
    (v20.Inv ∧ v20.complete = true ∧ v20.dataLength.toNat < 5 + v20.dlen.val + v20.slen.val) ∧
    (v21.Inv ∧ v21.complete = true ∧ v21.dataLength.toNat < 5 + v21.dlen.val + v21.slen.val) :=
  ⟨⟨inv_v1_21, by decide⟩, ⟨inv_v22, by decide⟩, ⟨inv_v20, by decide⟩, inv_v21, by decide⟩

end Sys2Proof.Tests
end

section
/-! SUPPORT. The request bytes (Decode.lean, log 5): for every `take…` function exactly the bytes on which it answers a
value are that value's `put…` bytes, and so exactly the encodings of well-formed instructions decode. -/

namespace Sys2Proof

open Sys2Proof.Laws

/-! ## Instructions by kind -/

/-- Cases on an instruction with the twelve sub-operations of FEED taken together. -/
theorem Instr.cases_subOp {motive : Instr → Prop} (i : Instr)
    (clear : motive .clear) (feed : ∀ b, motive (.feed b)) (getraw : motive .getraw)
    (crc16 : ∀ bytes start length, motive (.crc16 bytes start length))
    (crcstep : ∀ fcs b, motive (.crcstep fcs b)) (crc16Table : ∀ index, motive (.crc16Table index))
    (isvalid : ∀ buf, motive (.isvalid buf)) (sub : ∀ (sub : SubOp) b, motive (sub.instr b)) : motive i := by
  cases i with
  | clear => exact clear
  | feed b => exact feed b
  | getraw => exact getraw
  | crc16 bytes start length => exact crc16 bytes start length
  | crcstep fcs b => exact crcstep fcs b
  | crc16Table index => exact crc16Table index
  | isvalid buf => exact isvalid buf
  | feedIgnore b => exact sub .ignore b
  | feedRestart b => exact sub .restart b
  | feedDup b => exact sub .dup b
  | feedStart b => exact sub .start b
  | feedFmt b => exact sub .fmt b
  | feedLen b => exact sub .len b
  | feedDst b => exact sub .dst b
  | feedSrc b => exact sub .src b
  | feedHcs b => exact sub .hcs b
  | feedFcs b => exact sub .fcs b
  | feedStop b => exact sub .stop b
  | feedStore b => exact sub .store b

@[simp] theorem SubOp.wellFormed_instr (sub : SubOp) (b : Byte) : (sub.instr b).wellFormed = sub.admits b := by
  cases sub <;> rfl

@[simp] theorem SubOp.encode_instr (sub : SubOp) (b : Byte) :
    encode (sub.instr b) = [b, Head.selector (sub.instr b)] := by
  cases sub <;> rfl

/-- A sub-operation's selector is the `order` of its row of R80. -/
theorem SubOp.selector_of_ofOrder {n : Nat} {sub : SubOp} (h : SubOp.ofOrder n = some sub) (b : Byte) :
    Head.selector (sub.instr b) = BitVec.ofNat 8 n := by
  unfold SubOp.ofOrder at h
  split at h <;> cases h <;> rfl

/-! ## Decoded values -/

@[simp] theorem Decoded.map_eq_ok_iff {α β : Type} (f : α → β) (d : Decoded α) (c : β) (rest : List Byte) :
    d.map f = .ok c rest ↔ ∃ a, d = .ok a rest ∧ f a = c := by
  cases d <;> simp [Decoded.map, and_comm]

@[simp] theorem Decoded.andThen_eq_ok_iff {α β : Type} (f : α → List Byte → Decoded β) (d : Decoded α) (c : β)
    (rest : List Byte) : d.andThen f = .ok c rest ↔ ∃ a t, d = .ok a t ∧ f a t = .ok c rest := by
  cases d <;> simp [Decoded.andThen]

@[simp] theorem noOperand_eq_ok_iff (b : Byte) (d : Decoded Instr) (i : Instr) (rest : List Byte) :
    noOperand b d = .ok i rest ↔ b = 0#8 ∧ d = .ok i rest := by
  unfold noOperand
  split <;> simp [*]

/-! ## Operands -/

theorem takeNat_putNat (n : Nat) (rest : List Byte) : takeNat (putNat n ++ rest) = .ok n rest := by
  induction n with
  | zero => simp [putNat, takeNat]
  | succ n ih => simp [putNat, takeNat, ih]

theorem eq_putNat_of_takeNat {t rest : List Byte} {n : Nat} (h : takeNat t = .ok n rest) : t = putNat n ++ rest := by
  induction t generalizing n with
  | nil => simp [takeNat] at h
  | cons m t ih =>
    unfold takeNat at h
    split at h
    · next hm =>
      cases h
      simp [putNat, hm]
    · split at h
      · next hm =>
        obtain ⟨k, hk, rfl⟩ := (Decoded.map_eq_ok_iff ..).1 h
        simp [putNat, hm, ih hk]
      · cases h

@[simp] theorem takeNat_eq_ok_iff (t rest : List Byte) (n : Nat) : takeNat t = .ok n rest ↔ t = putNat n ++ rest :=
  ⟨eq_putNat_of_takeNat, fun h => h ▸ takeNat_putNat n rest⟩

theorem takeBytes_putBytes (bytes rest : List Byte) : takeBytes (putBytes bytes ++ rest) = .ok bytes rest := by
  induction bytes with
  | nil => cases rest <;> simp [putBytes, takeBytes]
  | cons b bytes ih => simp [putBytes, takeBytes, ih]

theorem eq_putBytes_of_takeBytes {t rest bytes : List Byte} (h : takeBytes t = .ok bytes rest) :
    t = putBytes bytes ++ rest := by
  fun_induction takeBytes t generalizing bytes with
  | case1 => cases h
  | case2 => cases h; rfl
  | case3 => cases h
  | case4 => cases h
  | case5 => cases h; rfl
  | case6 b t _ ih =>
    obtain ⟨bytes', ht, rfl⟩ := (Decoded.map_eq_ok_iff ..).1 h
    simp [putBytes, ih ht]
  | case7 => cases h

@[simp] theorem takeBytes_eq_ok_iff (t rest bytes : List Byte) :
    takeBytes t = .ok bytes rest ↔ t = putBytes bytes ++ rest :=
  ⟨eq_putBytes_of_takeBytes, fun h => h ▸ takeBytes_putBytes bytes rest⟩

/-- The decoder joins the two bytes of a word as R52 (a) does. -/
theorem append_eq_littleEndian (lo hi : Byte) : hi ++ lo = Machine.littleEndian lo hi :=
  calc (hi ++ lo : BitVec (8 + 8)) = hi.setWidth 16 <<< 8 ||| lo.setWidth 16 := by
        rw [BitVec.append_def, BitVec.shiftLeftZeroExtend_eq, BitVec.setWidth'_eq]
    _ = Machine.littleEndian lo hi := BitVec.or_comm _ _

@[simp] theorem takeWord_eq_ok_iff (t rest : List Byte) (w : Word16) :
    takeWord t = .ok w rest ↔ t = putWord w ++ rest := by
  match t with
  | [] => simp [takeWord, putWord]
  | [_] => simp [takeWord, putWord]
  | lo :: hi :: t =>
    simp only [takeWord, append_eq_littleEndian, putWord, Decoded.ok.injEq, List.cons_append, List.nil_append,
      List.cons.injEq, ← and_assoc]
    refine and_congr_left fun _ => ⟨?_, ?_⟩
    · rintro rfl
      simp
    · rintro ⟨rfl, rfl⟩
      exact Machine.littleEndian_split w

@[simp] theorem takeSpan_eq_ok_iff (t rest : List Byte) (i : Instr) :
    takeSpan t = .ok i rest ↔ ∃ bytes start length, start + length ≤ bytes.length ∧ i = .crc16 bytes start length ∧
      t = putNat start ++ putNat length ++ putBytes bytes ++ rest := by
  unfold takeSpan
  simp only [Decoded.andThen_eq_ok_iff, takeNat_eq_ok_iff, takeBytes_eq_ok_iff]
  constructor
  · rintro ⟨start, _, rfl, length, _, rfl, bytes, rest', rfl, h⟩
    split at h
    · next hspan =>
      cases h
      exact ⟨bytes, start, length, hspan, rfl, by simp⟩
    · cases h
  · rintro ⟨bytes, start, length, hspan, rfl, rfl⟩
    exact ⟨start, _, by simp, length, _, rfl, bytes, rest, rfl, if_pos hspan⟩

/-! ## Whole requests -/

/-- A sub-operation decodes where its row of R80 admits the fed byte. -/
theorem decode_encode_subOp (sub : SubOp) (b : Byte) (rest : List Byte) :
    decode (encode (sub.instr b) ++ rest) =
      if sub.admits b then .ok (sub.instr b) rest else .rejected .byteMismatch := by
  cases sub <;> rfl

theorem decode_encode (i : Instr) (rest : List Byte) (h : i.wellFormed = true) :
    decode (encode i ++ rest) = .ok i rest := by
  induction i using Instr.cases_subOp with
  | clear => rfl
  | feed b => rfl
  | getraw => rfl
  | crc16 bytes start length =>
    have hspan : start + length ≤ bytes.length := of_decide_eq_true h
    simp [encode, decode, decodeSelected, hspan]
  | crcstep fcs b => simp [encode, decode, decodeSelected]
  | crc16Table index => rfl
  | isvalid buf => simp [encode, decode, decodeSelected]
  | sub sub b =>
    rw [SubOp.wellFormed_instr] at h
    rw [decode_encode_subOp, if_pos h]

/-- What a selector and further operands decode to is well-formed and encodes as the bytes read. -/
theorem decodeSelected_ok {b : Byte} {n : Nat} {t rest : List Byte} {i : Instr}
    (h : decodeSelected b n t = .ok i rest) :
    i.wellFormed = true ∧ b :: BitVec.ofNat 8 n :: t = encode i ++ rest := by
  unfold decodeSelected at h
  split at h
  -- FEED
  · cases h
    exact ⟨rfl, rfl⟩
  -- CLEAR
  · obtain ⟨rfl, h⟩ := (noOperand_eq_ok_iff ..).1 h
    cases h
    exact ⟨rfl, rfl⟩
  -- GETRAW
  · obtain ⟨rfl, h⟩ := (noOperand_eq_ok_iff ..).1 h
    cases h
    exact ⟨rfl, rfl⟩
  -- CRC16
  · obtain ⟨rfl, h⟩ := (noOperand_eq_ok_iff ..).1 h
    obtain ⟨bytes, start, length, hspan, rfl, rfl⟩ := (takeSpan_eq_ok_iff ..).1 h
    exact ⟨decide_eq_true hspan, rfl⟩
  -- CRCSTEP
  · obtain ⟨fcs, hw, rfl⟩ := (Decoded.map_eq_ok_iff ..).1 h
    exact ⟨rfl, by rw [(takeWord_eq_ok_iff ..).1 hw]; rfl⟩
  -- CRC16.TABLE
  · cases h
    exact ⟨rfl, rfl⟩
  -- ISVALID
  · obtain ⟨rfl, h⟩ := (noOperand_eq_ok_iff ..).1 h
    obtain ⟨buf, hb, rfl⟩ := (Decoded.map_eq_ok_iff ..).1 h
    exact ⟨rfl, by rw [(takeBytes_eq_ok_iff ..).1 hb]; rfl⟩
  -- a sub-operation of FEED
  · split at h
    · next sub hsub =>
      split at h
      · next hb =>
        cases h
        rw [SubOp.wellFormed_instr, SubOp.encode_instr, SubOp.selector_of_ofOrder hsub]
        exact ⟨hb, rfl⟩
      · cases h
    · cases h

theorem decode_ok {bytes rest : List Byte} {i : Instr} (h : decode bytes = .ok i rest) :
    i.wellFormed = true ∧ bytes = encode i ++ rest := by
  match bytes with
  | [] => cases h
  | [_] => cases h
  | b :: sel :: t => simpa using decodeSelected_ok h

/-- Settles O7: the round trip from an instruction to its bytes and back. -/
theorem decodeOfEncodeIsTheInstruction : Obligations.DecodeOfEncodeIsTheInstruction :=
  decode_encode

/-- Settles O8: the round trip from bytes to an instruction and back. -/
theorem decodedBytesAreTheEncoding : Obligations.DecodedBytesAreTheEncoding :=
  fun _ _ _ => decode_ok

end Sys2Proof
end

section
/-! SUPPORT. What every FEED answers (R137), said once for each of its rules: `done` comes from the stop flag of an open
attempt and from nothing else, and the host's part of the state stays. -/

namespace Sys2Proof.Machine

/-! ## The condition of the pre-reset -/

theorem State.mustRestart_iff (s : State) : s.mustRestart ↔ s.stale = true ∨ s.full = true := by
  rw [s.stale_iff, s.full_iff]
  rfl

theorem State.open_.not_mustRestart {s : State} (h : s.open_) : ¬s.mustRestart := by
  rw [s.mustRestart_iff, s.full_iff, h.1, not_or, not_le]
  exact ⟨Bool.false_ne_true, h.2⟩

/-! ## What a rule answers -/

/-- `t` has the capacity and the waiting requests of `s`: what is the host's, not the reader's. -/
def State.SameHost (s t : State) : Prop := t.cap = s.cap ∧ t.inbox = s.inbox

/-- FEED at `s` answered `t` without completing a frame. -/
structure NotDone (s t : State) : Prop where
  host : s.SameHost t
  output : ∃ cause, t.output = .feed false cause

/-- FEED of `b` at `s` completed a frame with `t`: a flag at the stop position of an open attempt, both addresses known
and the header checksum not at the same position (R134, R137). -/
structure Completes (b : Byte) (s t : State) : Prop where
  host : s.SameHost t
  output : t.output = .feed true .none
  flag : b = Config.flag
  complete : t.complete = true
  opened : s.open_
  atStop : s.position + 1 = s.stopPos
  notAtHcs : s.position + 1 ≠ s.hcsPos
  dst : 0 < s.dlen.val
  src : 0 < s.slen.val

theorem notDone_answer (s : State) (cause : DropCause) : NotDone s (s.answer false cause) := ⟨⟨rfl, rfl⟩, cause, rfl⟩

theorem notDone_drop (s : State) (cause : DropCause) : NotDone s (s.drop cause) := ⟨⟨rfl, rfl⟩, cause, rfl⟩

/-- The rules act after the store, which changes nothing of the host's. -/
theorem NotDone.of_store {s t : State} {b : Byte} (h : NotDone (s.store b) t) : NotDone s t := ⟨h.host, h.output⟩

theorem actRestart_notDone (b : Byte) (s : State) : NotDone s (actRestart b s) := by
  unfold actRestart
  split <;> exact ⟨⟨rfl, rfl⟩, _, rfl⟩

theorem actFmt_notDone (b : Byte) (s : State) : NotDone s (actFmt b s) := by
  unfold actFmt
  split
  · exact notDone_drop s _
  · exact ⟨⟨rfl, rfl⟩, _, rfl⟩

theorem actLen_notDone (s : State) : NotDone s (actLen s) := ⟨⟨rfl, rfl⟩, _, rfl⟩

theorem actDst_notDone (b : Byte) (s : State) : NotDone s (actDst b s) := by
  unfold actDst
  split
  · exact notDone_drop s _
  · split <;> exact ⟨⟨rfl, rfl⟩, _, rfl⟩

theorem actSrc_notDone (b : Byte) (s : State) : NotDone s (actSrc b s) := by
  unfold actSrc
  split
  · exact notDone_drop s _
  · split <;> exact ⟨⟨rfl, rfl⟩, _, rfl⟩

theorem actHcs_notDone (s : State) : NotDone s (actHcs s) := by
  unfold actHcs
  split
  · exact notDone_answer s _
  · exact notDone_drop s _

theorem actFcs_notDone (s : State) : NotDone s (actFcs s) := by
  unfold actFcs
  split
  · exact notDone_answer s _
  · exact notDone_drop s _

theorem actStop_sameHost (b : Byte) (s : State) : s.SameHost (actStop b s) := by
  unfold actStop
  split <;> exact ⟨rfl, rfl⟩

/-- Of FEED's rules only FEED.STOP answers `done` (R137). -/
theorem feedByte_notDone_or_completes (b : Byte) (s : State) :
    NotDone s (feedByte b s) ∨ Completes b s (feedByte b s) := by
  apply feedByte_cases (P := fun t => NotDone s t ∨ Completes b s t)
  case ignore => exact fun _ _ => .inl (notDone_answer s _)
  case release => exact fun _ hb => .inl (actRestart_other s hb ▸ actRestart_notDone b s)
  case reopen => exact fun _ hb => .inl (actRestart_flag s hb ▸ actRestart_notDone b s)
  case dup => exact fun _ _ => .inl (notDone_answer s _)
  case start => exact fun _ _ _ => .inl (notDone_answer (s.store b) _).of_store
  case fmt => exact fun _ _ _ => .inl (actFmt_notDone b (s.store b)).of_store
  case len => exact fun _ _ => .inl (actLen_notDone (s.store b)).of_store
  case dst => exact fun _ _ _ => .inl (actDst_notDone b (s.store b)).of_store
  case src => exact fun _ _ _ _ => .inl (actSrc_notDone b (s.store b)).of_store
  case hcs => exact fun _ _ _ _ _ => .inl (actHcs_notDone (s.store b)).of_store
  case fcs => exact fun _ _ _ _ _ _ => .inl (actFcs_notDone (s.store b)).of_store
  case stop =>
    intro ho _ hd hs hh hstop
    by_cases hb : b = Config.flag
    · rw [actStop_flag _ hb]
      exact .inr ⟨⟨rfl, rfl⟩, rfl, hb, rfl, ho, hstop, hh, hd, hs⟩
    · rw [actStop_other _ hb]
      exact .inl (notDone_drop (s.store b) _).of_store
  case store => exact fun _ _ _ _ _ _ _ => .inl (notDone_answer (s.store b) _).of_store

/-- Settles O37: FEED either leaves `done` false or completes a frame, and completing brings the conditions. -/
theorem feedIsTotal : Obligations.FeedIsTotal := by
  intro s b
  obtain ⟨-, cause, hout⟩ | h := feedByte_notDone_or_completes b s
  · exact ⟨_, false, cause, exec_feed b s, hout, fun hdone => absurd hdone Bool.false_ne_true⟩
  · exact ⟨_, true, .none, exec_feed b s, h.output, fun _ =>
      ⟨rfl, h.flag, h.complete, h.atStop, h.notAtHcs, h.dst, h.src, h.opened.not_mustRestart⟩⟩

end Sys2Proof.Machine
end

section
/-! SUPPORT. What the instructions leave unchanged: everything but the output for the operations that only answer (R9,
R54), and the capacity and the requests for every instruction (R7, log 4). -/

namespace Sys2Proof.Machine

/-! ## Operations that only answer -/

theorem execCrc16_next {bytes : List Byte} {start length : Nat} {s t : State}
    (h : execCrc16 bytes start length s = .next t) :
    start + length ≤ bytes.length ∧ t = { s with output := .word (crcSpan (listAt bytes) start length) } := by
  unfold execCrc16 at h
  split at h
  · next hspan =>
    cases h
    exact ⟨hspan, rfl⟩
  · cases h

theorem execGetraw_next {s t : State} (h : execGetraw s = .next t) :
    ∃ slice, t = { s with output := .raw slice } := by
  unfold execGetraw at h
  split at h
  · cases h
    exact ⟨_, rfl⟩
  · split at h
    · cases h
      exact ⟨_, rfl⟩
    · cases h

/-- Settles O12: each of the five answers a state that differs in the output alone, so it reads the same buffer. -/
theorem pureOperationsOnlyAnswer : Obligations.PureOperationsOnlyAnswer := by
  rintro i s t (rfl | ⟨bytes, start, length, rfl⟩ | ⟨fcs, b, rfl⟩ | ⟨index, rfl⟩ | ⟨buf, rfl⟩) h
  · obtain ⟨_, rfl⟩ := execGetraw_next h
    exact ⟨rfl, fun _ => rfl⟩
  · obtain ⟨_, rfl⟩ := execCrc16_next h
    exact ⟨rfl, fun _ => rfl⟩
  · cases h; exact ⟨rfl, fun _ => rfl⟩
  · cases h; exact ⟨rfl, fun _ => rfl⟩
  · cases h; exact ⟨rfl, fun _ => rfl⟩

/-! ## The capacity and the requests -/

theorem feedByte_sameHost (b : Byte) (s : State) : s.SameHost (feedByte b s) := by
  obtain h | h := feedByte_notDone_or_completes b s
  · exact h.host
  · exact h.host

theorem runSub_sameHost (sub : SubOp) (b : Byte) (s : State) : s.SameHost (runSub sub b s) := by
  cases sub with
  | ignore => exact (notDone_answer s _).host
  | restart => exact (actRestart_notDone b s).host
  | dup => exact (notDone_answer s _).host
  | start => exact (notDone_answer (s.store b) _).host
  | fmt => exact (actFmt_notDone b (s.store b)).host
  | len => exact (actLen_notDone (s.store b)).host
  | dst => exact (actDst_notDone b (s.store b)).host
  | src => exact (actSrc_notDone b (s.store b)).host
  | hcs => exact (actHcs_notDone (s.store b)).host
  | fcs => exact (actFcs_notDone (s.store b)).host
  | stop => exact actStop_sameHost b (s.store b)
  | store => exact (notDone_answer (s.store b) _).host

theorem exec_sameHost {i : Instr} {s t : State} (h : exec i s = .next t) : s.SameHost t := by
  induction i using Instr.cases_subOp with
  | clear => cases h; exact ⟨rfl, rfl⟩
  | feed b => cases h; exact feedByte_sameHost b s
  | getraw =>
    obtain ⟨_, rfl⟩ := execGetraw_next h
    exact ⟨rfl, rfl⟩
  | crc16 bytes start length =>
    obtain ⟨_, rfl⟩ := execCrc16_next h
    exact ⟨rfl, rfl⟩
  | crcstep fcs b => cases h; exact ⟨rfl, rfl⟩
  | crc16Table index => cases h; exact ⟨rfl, rfl⟩
  | isvalid buf => cases h; exact ⟨rfl, rfl⟩
  | sub sub b =>
    rw [exec_sub] at h
    split at h
    · cases h; exact runSub_sameHost sub b s
    · cases h

/-- Settles O10, over the kinds of instruction. -/
theorem execKeepsCapacityAndRequests : Obligations.ExecKeepsCapacityAndRequests :=
  fun _ _ _ => exec_sameHost

end Sys2Proof.Machine
end

section
/-! SUPPORT. The step and the request it takes (R54 (d), R56). -/

namespace Sys2Proof.Machine

/-- A request has bytes. -/
theorem State.idle_eq_false_of_decode {s : State} {i : Instr} {rest : List Byte} (h : decode s.inbox = .ok i rest) :
    s.idle = false := by
  cases hin : s.inbox with
  | nil =>
    rw [hin] at h
    cases h
  | cons _ _ => simp [State.idle, hin]

/-- Settles O1: a reader with a decodable request is not idle, so the step takes it. -/
theorem stepExecutesTheNextRequest : Obligations.StepExecutesTheNextRequest := by
  intro s i rest h
  have hfetch : s.fetch = .ok i rest := h
  simp [step, State.idle_eq_false_of_decode h, hfetch]

end Sys2Proof.Machine
end

section
/-! SUPPORT. The decode table R80 in the order of an attempt, and that FEED is the sub-operation the table selects
(R136). -/

namespace Sys2Proof.Machine

/-! ## What the decode table selects -/

/-- A reader that is stale or full has read at least two bytes. -/
theorem State.one_lt_position_of_ended {s : State} (h : s.stale = true ∨ s.full = true) : 1 < s.position := by
  by_contra hp
  obtain ⟨hstale, hfull⟩ := s.open_of_early (not_lt.1 hp)
  rw [hstale, s.full_false_iff.2 hfull] at h
  simp at h

theorem State.open_.not_ended {s : State} (h : s.open_) : ¬(s.stale = true ∨ s.full = true) := by
  simp [h.1, s.full_false_iff.2 h.2]

/-- Rows 1, 4, 5, 6: Idle and Started. -/
theorem select_early {s : State} (b : Byte) (hp : s.position ≤ 1) :
    select s b =
      if s.position = 0 then if b = Config.flag then .start else .ignore
      else if b = Config.flag then .dup else .fmt := by
  have ho := (s.open_of_early hp).not_ended
  obtain h | h : s.position = 0 ∨ s.position = 1 := by omega
  · by_cases hb : b = Config.flag <;> simp [select, h, hb, ho]
  · by_cases hb : b = Config.flag <;> simp [select, h, hb, ho]

/-- Rows 2 and 3: the pre-reset. -/
theorem select_ended {s : State} (b : Byte) (h : s.stale = true ∨ s.full = true) : select s b = .restart := by
  have hp := State.one_lt_position_of_ended h
  unfold select
  rw [if_neg (by omega), if_pos h]

/-- Row 7: the length byte. -/
theorem select_len {s : State} (b : Byte) (ho : s.open_) (hp : s.position = 2) : select s b = .len := by
  simp [select, hp, ho.not_ended]

/-- Rows 8 to 13: the priority of R126 on the bytes after the length. -/
theorem select_attempt {s : State} (b : Byte) (ho : s.open_) (hp : 3 ≤ s.position) :
    select s b =
      if s.dlen.val = 0 then .dst
      else if s.slen.val = 0 then .src
      else if s.position + 1 = s.hcsPos then .hcs
      else if s.position + 1 = s.fcsPos then .fcs
      else if s.position + 1 = s.stopPos then .stop
      else .store := by
  have h0 : s.position ≠ 0 := by omega
  have h1 : s.position ≠ 1 := by omega
  have h2 : s.position ≠ 2 := by omega
  simp only [select, h0, h1, h2, hp, ho.not_ended, false_and, true_and, if_false, Nat.pos_iff_ne_zero]
  by_cases hd : s.dlen.val = 0
  · simp [hd]
  · by_cases hs : s.slen.val = 0 <;> simp [hd, hs]

/-- Row 12: the stop position, once the header checksum is not compared there. -/
theorem select_stop {s : State} (b : Byte) (ho : s.open_) (hp : 3 ≤ s.position) (hd : 0 < s.dlen.val)
    (hs : 0 < s.slen.val) (hh : s.position + 1 ≠ s.hcsPos) (hstop : s.position + 1 = s.stopPos) :
    select s b = .stop := by
  have hf : s.position + 1 ≠ s.fcsPos := by
    unfold State.stopPos at hstop
    unfold State.fcsPos
    omega
  rw [select_attempt b ho hp, if_neg hd.ne', if_neg hs.ne', if_neg hh, if_neg hf, if_pos hstop]

/-- The rules that read bytes of the buffer act no earlier than at the length byte. -/
theorem two_le_position_of_select {s : State} {b : Byte}
    (h : select s b = .len ∨ select s b = .hcs ∨ select s b = .fcs) : 2 ≤ s.position := by
  by_contra hp
  rw [select_early b (by omega)] at h
  split at h <;> split at h <;> simp at h

/-! ## FEED is the selected sub-operation -/

theorem feedByte_eq_runSub_select (b : Byte) (s : State) : feedByte b s = runSub (select s b) b s := by
  apply feedByte_cases (P := fun t => t = runSub (select s b) b s)
  case ignore =>
    intro hp hb
    rw [select_early b (by omega), if_pos hp, if_neg hb]
    rfl
  case release =>
    intro hr hb
    rw [select_ended b hr]
    exact (actRestart_other s hb).symm
  case reopen =>
    intro hr hb
    rw [select_ended b hr]
    exact (actRestart_flag s hb).symm
  case dup =>
    intro hp hb
    rw [select_early b (by omega), if_neg (by omega), if_pos hb]
    rfl
  case start =>
    intro _ hp hb
    rw [select_early b (by omega), if_pos hp, if_pos hb]
    rfl
  case fmt =>
    intro _ hp hb
    rw [select_early b (by omega), if_neg (by omega), if_neg hb]
    rfl
  case len =>
    intro ho hp
    rw [select_len b ho hp]
    rfl
  case dst =>
    intro ho hp hd
    rw [select_attempt b ho hp, if_pos hd]
    rfl
  case src =>
    intro ho hp hd hs
    rw [select_attempt b ho hp, if_neg hd.ne', if_pos hs]
    rfl
  case hcs =>
    intro ho hp hd hs hh
    rw [select_attempt b ho hp, if_neg hd.ne', if_neg hs.ne', if_pos hh]
    rfl
  case fcs =>
    intro ho hp hd hs hh hf
    rw [select_attempt b ho hp, if_neg hd.ne', if_neg hs.ne', if_neg hh, if_pos hf]
    rfl
  case stop =>
    intro ho hp hd hs hh hstop
    rw [select_stop b ho hp hd hs hh hstop]
    rfl
  case store =>
    intro ho hp hd hs hh hf hstop
    rw [select_attempt b ho hp, if_neg hd.ne', if_neg hs.ne', if_neg hh, if_neg hf, if_neg hstop]
    rfl

/-- A sub-operation answers where it is selected, and then what FEED answers (log 7). -/
theorem exec_sub_next {sub : SubOp} {b : Byte} {s t : State} (h : exec (sub.instr b) s = .next t) :
    select s b = sub ∧ t = feedByte b s := by
  rw [exec_sub] at h
  split at h
  · next hsub =>
    cases h
    exact ⟨hsub, by rw [feedByte_eq_runSub_select, hsub]⟩
  · cases h

end Sys2Proof.Machine
end

section
/-! SUPPORT. The two address fields of an attempt (R75, R130, R131): what the invariants of R39 say of each, said once
for both, and how the next stored byte moves it on. -/

namespace Sys2Proof.Machine

/-- An address field that begins at `start`, with the reader at `pos`: `n` is its length, and 0 while its last byte has
not been stored. -/
structure AddressField (at_ : Nat → Byte) (start n pos : Nat) : Prop where
  known : 0 < n → start + n ≤ pos ∧ AddressAt at_ start n
  pending : n = 0 → pos ≤ start + 3 ∧ ∀ i, start ≤ i → i < pos → odd (at_ i) = false

theorem AddressField.empty (at_ : Nat → Byte) (start : Nat) : AddressField at_ start 0 start :=
  ⟨fun h => absurd h (Nat.lt_irrefl 0), fun _ => ⟨by omega, fun i h1 h2 => by omega⟩⟩

theorem AddressAt.congr {f g : Nat → Byte} {start n : Nat} (h : AddressAt f start n)
    (hfg : ∀ a, a < start + n → g a = f a) : AddressAt g start n := by
  obtain ⟨hn, hlast, heven⟩ := h
  refine ⟨hn, ?_, fun i hi => ?_⟩
  · rw [hfg _ (by omega), hlast]
  · rw [hfg _ (by omega), heven i hi]

section
variable {s : State} {b : Byte} {start n : Nat}

/-- A byte after the field changes nothing of it. -/
theorem AddressField.store_beyond (h : AddressField s.byteAt start n s.position) (hn : 0 < n) :
    AddressField (s.store b).byteAt start n (s.position + 1) := by
  obtain ⟨hend, hat⟩ := h.known hn
  exact ⟨fun _ => ⟨by omega, hat.congr fun a ha => s.store_byteAt_other b (by omega)⟩, fun h0 => by omega⟩

/-- An even byte leaves the field unfinished. -/
theorem AddressField.store_even (h : AddressField s.byteAt start 0 s.position) (hroom : s.position < start + 3)
    (hb : odd b = false) : AddressField (s.store b).byteAt start 0 (s.position + 1) := by
  refine ⟨fun h0 => by omega, fun _ => ⟨by omega, fun i h1 h2 => ?_⟩⟩
  rw [s.store_byteAt]
  split
  · exact hb
  · exact (h.pending rfl).2 i h1 (by omega)

/-- An odd byte ends the field. -/
theorem AddressField.store_odd (h : AddressField s.byteAt start 0 s.position) (hn : start + n = s.position + 1)
    (hp : start ≤ s.position) (hb : odd b = true) : AddressField (s.store b).byteAt start n (s.position + 1) := by
  refine ⟨fun _ => ⟨by omega, by omega, ?_, fun i hi => ?_⟩, fun h0 => by omega⟩
  · rw [show start + n - 1 = s.position by omega, s.store_byteAt_position, hb]
  · rw [s.store_byteAt_other b (by omega)]
    exact (h.pending rfl).2 _ (by omega) (by omega)

end

/-! ## The clauses (f) to (i) of R39 -/

theorem State.Inv.destination {s : State} (h : s.Inv) : AddressField s.byteAt 3 s.dlen.val s.position where
  known hd := ⟨(h.dstKnown hd).1, hd, (h.dstKnown hd).2⟩
  pending hd := (h.dstPending hd).2

theorem State.Inv.source {s : State} (h : s.Inv) (hd : 0 < s.dlen.val) :
    AddressField s.byteAt (3 + s.dlen.val) s.slen.val s.position where
  known hs := ⟨(h.srcKnown hs).2.1, hs, (h.srcKnown hs).2.2⟩
  pending hs := by
    obtain ⟨hp, heven⟩ := h.srcPending hd hs
    exact ⟨by omega, heven⟩

theorem State.Inv.dlen_pos {s : State} (h : s.Inv) (hs : 0 < s.slen.val) : 0 < s.dlen.val := (h.srcKnown hs).1

/-- Settles O56: the clauses (f) and (h) of R39 are the form of the two addresses. -/
theorem addressReads : Obligations.AddressReads := by
  intro s h
  refine ⟨fun hd => if_pos hd, fun hs => if_pos hs, fun hd => ⟨if_neg ?_, (h.destination.known hd).2⟩,
    fun hs => ⟨if_neg ?_, ((h.source (h.dlen_pos hs)).known hs).2⟩⟩
  · exact Fin.pos_iff_ne_zero.1 hd
  · exact Fin.pos_iff_ne_zero.1 hs

end Sys2Proof.Machine
end

section
/-! SUPPORT. The invariants of R39 hold at reset and every step keeps them. FEED stores a byte in one of four places: as
the start flag, as one of the two bytes before the length is known, in an attempt, or as the stop flag. -/

namespace Sys2Proof.Machine

/-! ## Reset and CLEAR -/

theorem State.empty_inv (cap : Config.Capacity) : (State.empty cap).Inv :=
  State.clear_inv (s := State.empty cap) rfl rfl

/-- Settles O5: the empty reader is a cleared one. -/
theorem resetMeetsTheInvariants : Obligations.ResetMeetsTheInvariants :=
  ⟨State.empty_inv Config.capacity, State.empty_inv⟩

/-- Settles O4: the capacity carries its bound, and CLEAR writes the six register values. -/
theorem resetIsTheEmptyFrame : Obligations.ResetIsTheEmptyFrame := by
  refine ⟨rfl, rfl, rfl, rfl, rfl, rfl, State.reset.cap.three_le, rfl, rfl, rfl, fun s t h => ?_⟩
  cases h
  exact ⟨rfl, rfl, rfl, rfl, rfl, rfl⟩

theorem State.Inv.clear {s : State} (h : s.Inv) : s.clear.Inv := State.clear_inv h.canonical h.within

/-! ## The first three bytes -/

/-- In Idle the flag starts an attempt. -/
theorem State.Inv.store_flag {s : State} (h : s.Inv) (hp : s.position = 0) : (s.store Config.flag).Inv := by
  obtain ⟨hfmt, hL, hd, hs, hc⟩ := h.fresh (by omega)
  have hcap := s.cap.three_le
  obtain ⟨hwf, hwithin⟩ := h.store_buffer (by omega) Config.flag
  constructor
  case canonical => exact hwf
  case within => exact hwithin
  case bound => simp; omega
  case fresh => exact fun _ => ⟨hfmt, hL, hd, hs, hc⟩
  case startFlag => exact fun _ => hp ▸ s.store_byteAt_position _
  -- the other clauses speak of a later cursor, or of registers that are still 0
  all_goals simp [hp, hL, hd, hs, hc]
  case dstPending => omega

theorem actFmt_inv {s : State} (h : s.Inv) (hp : s.position = 1) (b : Byte) : (actFmt b (s.store b)).Inv := by
  have hcap := s.cap.three_le
  obtain ⟨hwf, hwithin⟩ := h.store_buffer (by omega) b
  by_cases hb : b &&& Config.fmtMask = Config.fmtValid
  · rw [actFmt_valid _ hb]
    obtain ⟨-, hL, hd, hs, hc⟩ := h.fresh (by omega)
    refine State.Inv.answer ?_ _ _
    constructor
    case canonical => exact hwf
    case within => exact hwithin
    case startFlag => exact fun _ => (s.store_byteAt_other b (by omega)).trans (h.startFlag (by omega))
    case format => exact fun _ => ⟨rfl, by rw [← hb]; exact congrArg (· &&& _) (hp ▸ s.store_byteAt_position b)⟩
    -- the other clauses speak of a later cursor, or of registers that are still 0
    all_goals simp [hp, hL, hd, hs, hc]
    all_goals omega
  · rw [actFmt_invalid _ hb]
    exact State.drop_inv hwf hwithin _

/-- Before the length byte no address is known. -/
theorem State.Inv.addresses_absent {s : State} (h : s.Inv) (hp : s.position ≤ 3) : s.dlen = 0 ∧ s.slen = 0 := by
  have hd : s.dlen.val = 0 := by
    by_contra hd
    have := (h.dstKnown (by omega)).1
    omega
  exact ⟨Fin.ext hd, Fin.ext (h.dstPending hd).1⟩

theorem actLen_inv {s : State} (h : s.Inv) (ho : s.open_) (hp : s.position = 2) (b : Byte) :
    (actLen (s.store b)).Inv := by
  obtain ⟨hwf, hwithin⟩ := h.store_buffer ho.2 b
  have hcap := s.cap.three_le
  obtain ⟨hd, hs⟩ := h.addresses_absent (by omega)
  have hc := h.not_complete ho
  have hbelow : ∀ a, a < 2 → (s.store b).byteAt a = s.byteAt a := fun a ha => s.store_byteAt_other b (by omega)
  refine State.Inv.answer ?_ _ _
  constructor
  case canonical => exact hwf
  case within => exact hwithin
  case startFlag => exact fun _ => (hbelow 0 (by omega)).trans (h.startFlag (by omega))
  case format =>
    obtain ⟨hfmt, hb1⟩ := h.format (by omega)
    exact fun _ => ⟨hfmt, hb1 ▸ congrArg (· &&& _) (hbelow 1 (by omega))⟩
  case lengthCaptured => exact fun _ => rfl
  case notBeyondStop =>
    simp only [State.stopPos, State.store_position, hp]
    omega
  -- the other clauses speak of another cursor, or of addresses not known yet
  all_goals simp [hp, hd, hs, hc]
  all_goals omega

/-! ## An attempt whose length is known -/

/-- A byte stored in an attempt keeps the invariants when the address fields move on by the rule and the checks that
fall due at the new cursor hold. -/
theorem State.Inv.store_attempt {s : State} {b : Byte} {d e : Fin 4} (h : s.Inv) (ho : s.open_) (hp : 3 ≤ s.position)
    (dst : AddressField (s.store b).byteAt 3 d.val (s.position + 1))
    (absent : d.val = 0 → e.val = 0)
    (src : 0 < d.val → AddressField (s.store b).byteAt (3 + d.val) e.val (s.position + 1))
    (header : 0 < d.val → 0 < e.val → 6 + d.val + e.val ≤ s.position + 1 →
      crcCheck (s.store b).byteAt (3 + d.val + e.val) = true)
    (frame : 0 < d.val → 0 < e.val → 3 + d.val + e.val ≤ s.dataLength.toNat → s.dataLength.toNat ≤ s.position →
      crcCheck (s.store b).byteAt (s.dataLength.toNat - 2) = true) :
    State.Inv { s.store b with dlen := d, slen := e } := by
  obtain ⟨hwf, hwithin⟩ := h.store_buffer ho.2 b
  have hbelow : ∀ a, a < 3 → (s.store b).byteAt a = s.byteAt a := fun a ha => s.store_byteAt_other b (by omega)
  have hd : 0 < e.val → 0 < d.val := fun he => Nat.pos_of_ne_zero fun h0 => he.ne' (absent h0)
  have hc : ¬s.complete = true := by simp [h.not_complete ho]
  obtain ⟨hfmt, hb1⟩ := h.format (by omega)
  exact {
    canonical := hwf
    within := hwithin
    bound := ho.2
    fresh := fun hq => absurd hq (by simp; omega)
    startFlag := fun _ => (hbelow 0 (by omega)).trans (h.startFlag (by omega))
    format := fun _ => ⟨hfmt, hb1 ▸ congrArg (· &&& _) (hbelow 1 (by omega))⟩
    noLength := fun hq => absurd hq (by simp; omega)
    lengthCaptured := fun _ =>
      (h.lengthCaptured hp).trans (congrArg₂ _ (hbelow 1 (by omega)).symm (hbelow 2 (by omega)).symm)
    dstKnown := fun hd => ⟨(dst.known hd).1, (dst.known hd).2.2⟩
    dstPending := fun hd => ⟨absent hd, dst.pending hd⟩
    srcKnown := fun he => ⟨hd he, ((src (hd he)).known he).1, ((src (hd he)).known he).2.2⟩
    srcPending := fun hd he => ((src hd).pending he).imp_left fun hq => by simp at hq ⊢; omega
    notBeyondStop := s.stale_false_iff.1 ho.1
    headerChecked := header
    completed := fun hc' => absurd hc' hc
    completedChecked := fun hc' => absurd hc' hc
    frameChecked := fun hd he hL hq => frame hd he hL (Nat.le_of_succ_le_succ hq) }

/-- After the addresses a stored byte keeps the invariants when the check that falls due at it holds. -/
theorem State.Inv.store_body {s : State} {b : Byte} (h : s.Inv) (ho : s.open_) (hp : 3 ≤ s.position)
    (hd : 0 < s.dlen.val) (hs : 0 < s.slen.val)
    (header : s.position + 1 = s.hcsPos → crcCheck (s.store b).byteAt s.ctrlOff = true)
    (frame : s.position + 1 = s.fcsPos → crcCheck (s.store b).byteAt (s.dataLength.toNat - 2) = true) :
    (s.store b).Inv := by
  refine h.store_attempt (d := s.dlen) (e := s.slen) ho hp (h.destination.store_beyond hd) (fun h0 => by omega)
    (fun _ => (h.source hd).store_beyond hs) (fun _ _ hq => ?_) (fun _ _ hL hq => ?_)
  · obtain hq | hq : s.position + 1 = s.hcsPos ∨ s.hcsPos ≤ s.position := by unfold State.hcsPos; omega
    · exact header hq
    · have hread : 6 + s.dlen.val + s.slen.val ≤ s.position := hq
      rw [← h.headerChecked hd hs hq]
      exact crcCheck_congr _ _ _ fun a _ ha => s.store_byteAt_other b (by omega)
  · obtain hq | hq : s.position + 1 = s.fcsPos ∨ s.fcsPos ≤ s.position := by unfold State.fcsPos; omega
    · exact frame hq
    · have hread : s.dataLength.toNat < s.position := hq
      rw [← h.frameChecked hd hs hL hq]
      exact crcCheck_congr _ _ _ fun a _ ha => s.store_byteAt_other b (by omega)

theorem actDst_inv {s : State} (h : s.Inv) (ho : s.open_) (hp : 3 ≤ s.position) (hd : s.dlen.val = 0) (b : Byte) :
    (actDst b (s.store b)).Inv := by
  have hs : s.slen.val = 0 := (h.dstPending hd).1
  have hfield : AddressField s.byteAt 3 0 s.position := hd ▸ h.destination
  by_cases hlong : 6 < (s.store b).position
  · obtain ⟨hwf, hwithin⟩ := h.store_buffer ho.2 b
    rw [actDst_long b hlong]
    exact State.drop_inv hwf hwithin _
  have hroom : s.position < 6 := by simpa using hlong
  by_cases hb : odd b = true
  · have hn : s.position - 2 < 4 := by omega
    rw [actDst_last hb ⟨s.position - 2, hn⟩ (by simp)]
    refine State.Inv.answer ?_ _ _
    refine h.store_attempt (e := s.slen) ho hp (hfield.store_odd (by simp; omega) hp hb) (fun _ => hs) (fun _ => ?_)
      (fun _ he => absurd hs he.ne') (fun _ he => absurd hs he.ne')
    rw [hs, show 3 + (s.position - 2) = s.position + 1 by omega]
    exact AddressField.empty _ _
  · have hb : odd b = false := by simpa using hb
    rw [actDst_more (by simp; omega) hb]
    refine State.Inv.answer ?_ _ _
    exact h.store_attempt (d := s.dlen) (e := s.slen) ho hp (hd ▸ hfield.store_even hroom hb) (fun _ => hs)
      (fun hd' => absurd hd hd'.ne') (fun hd' => absurd hd hd'.ne') (fun hd' => absurd hd hd'.ne')

theorem actSrc_inv {s : State} (h : s.Inv) (ho : s.open_) (hp : 3 ≤ s.position) (hd : 0 < s.dlen.val)
    (hs : s.slen.val = 0) (b : Byte) : (actSrc b (s.store b)).Inv := by
  have hfield : AddressField s.byteAt (3 + s.dlen.val) 0 s.position := hs ▸ h.source hd
  have hdst := h.destination.store_beyond (b := b) hd
  have hstart : 3 + s.dlen.val ≤ s.position := (h.dstKnown hd).1
  by_cases hlong : 6 + s.dlen.val < s.position + 1
  · obtain ⟨hwf, hwithin⟩ := h.store_buffer ho.2 b
    rw [actSrc_long b hlong]
    exact State.drop_inv hwf hwithin _
  by_cases hb : odd b = true
  · have hn : s.position - 2 - s.dlen.val < 4 := by omega
    rw [actSrc_last hb ⟨s.position - 2 - s.dlen.val, hn⟩ (by simp)]
    refine State.Inv.answer ?_ _ _
    refine h.store_attempt (d := s.dlen) ho hp hdst (fun h0 => absurd h0 hd.ne')
      (fun _ => hfield.store_odd (by simp; omega) hstart hb) (fun _ _ hq => ?_) (fun _ _ hL hq => ?_)
    · simp at hq; omega
    · simp at hL; omega
  · have hb : odd b = false := by simpa using hb
    rw [actSrc_more (by simp; omega) hb]
    refine State.Inv.answer ?_ _ _
    exact h.store_attempt (d := s.dlen) (e := s.slen) ho hp hdst (fun h0 => absurd h0 hd.ne')
      (fun _ => hs ▸ hfield.store_even (by omega) hb) (fun _ he => absurd hs he.ne') (fun _ he => absurd hs he.ne')

theorem actHcs_inv {s : State} (h : s.Inv) (ho : s.open_) (hp : 3 ≤ s.position) (hd : 0 < s.dlen.val)
    (hs : 0 < s.slen.val) (hh : s.position + 1 = s.hcsPos) (b : Byte) : (actHcs (s.store b)).Inv := by
  by_cases hcheck : crcCheck (s.store b).byteAt ((s.store b).position - 3) = true
  · have hspan : (s.store b).position - 3 = s.ctrlOff := by
      unfold State.hcsPos at hh
      unfold State.ctrlOff
      simp; omega
    rw [actHcs_pass hcheck]
    rw [hspan] at hcheck
    refine (h.store_body ho hp hd hs (fun _ => hcheck) fun hf => ?_).answer _ _
    have : s.dataLength.toNat - 2 = s.ctrlOff := by
      unfold State.fcsPos at hf
      rw [← hspan]
      simp; omega
    rwa [this]
  · obtain ⟨hwf, hwithin⟩ := h.store_buffer ho.2 b
    rw [actHcs_fail hcheck]
    exact State.drop_inv hwf hwithin _

theorem actFcs_inv {s : State} (h : s.Inv) (ho : s.open_) (hp : 3 ≤ s.position) (hd : 0 < s.dlen.val)
    (hs : 0 < s.slen.val) (hh : s.position + 1 ≠ s.hcsPos) (hf : s.position + 1 = s.fcsPos) (b : Byte) :
    (actFcs (s.store b)).Inv := by
  by_cases hcheck : crcCheck (s.store b).byteAt ((s.store b).position - 3) = true
  · have hspan : (s.store b).position - 3 = s.dataLength.toNat - 2 := by
      unfold State.fcsPos at hf
      simp; omega
    rw [actFcs_pass hcheck]
    rw [hspan] at hcheck
    exact (h.store_body ho hp hd hs (fun hh' => absurd hh' hh) fun _ => hcheck).answer _ _
  · obtain ⟨hwf, hwithin⟩ := h.store_buffer ho.2 b
    rw [actFcs_fail hcheck]
    exact State.drop_inv hwf hwithin _

/-! ## The stop flag -/

/-- At the stop position the two checks that have passed do not overlap (R138 (h)). -/
theorem State.Inv.length_ne_overlap {s : State} (h : s.Inv) (hd : 0 < s.dlen.val) (hs : 0 < s.slen.val)
    (hp : s.position = s.stopPos) : s.dataLength.toNat ≠ 6 + s.dlen.val + s.slen.val := by
  intro hL
  unfold State.stopPos at hp
  have hheader : crcCheck s.byteAt (3 + s.dlen.val + s.slen.val) = true :=
    h.headerChecked hd hs (by unfold State.hcsPos; omega)
  have hframe : crcCheck s.byteAt (s.dataLength.toNat - 2) = true :=
    h.frameChecked hd hs (by omega) (by unfold State.fcsPos; omega)
  rw [show s.dataLength.toNat - 2 = 3 + s.dlen.val + s.slen.val + 1 by omega, crcCheck_overlap _ _ hheader] at hframe
  exact Bool.false_ne_true hframe

/-- A flag at the stop position, after the addresses and where no header check fell due, completes the frame. -/
theorem State.Inv.completing {s : State} (h : s.Inv) (hd : 0 < s.dlen.val) (hs : 0 < s.slen.val)
    (hsrc : 3 + s.dlen.val + s.slen.val < s.position) (hp : s.position = s.stopPos) (hh : s.position ≠ s.hcsPos)
    (hb : s.byteAt (s.dataLength.toNat + 1) = Config.flag) : State.Inv { s with complete := true } := by
  have hL := h.length_ne_overlap hd hs hp
  unfold State.stopPos at hp
  unfold State.hcsPos at hh
  have hpos : 0 < s.dataLength.toNat := by omega
  have hmin : 2 + s.dlen.val + s.slen.val ≤ s.dataLength.toNat := by omega
  have hheader : s.dataLength.toNat ≠ 4 + s.dlen.val + s.slen.val := by omega
  exact { h with
    fresh := fun hq => absurd hq (by simp; omega)
    completed := fun _ => ⟨hpos, hp, hb, hd, hs, hmin, hheader, hL⟩
    completedChecked := fun _ (hlen : 5 + s.dlen.val + s.slen.val ≤ s.dataLength.toNat) =>
      h.frameChecked hd hs (by omega) (by unfold State.fcsPos; omega) }

theorem actStop_inv {s : State} (h : s.Inv) (ho : s.open_) (hp : 3 ≤ s.position) (hd : 0 < s.dlen.val)
    (hs : 0 < s.slen.val) (hh : s.position + 1 ≠ s.hcsPos) (hstop : s.position + 1 = s.stopPos) (b : Byte) :
    (actStop b (s.store b)).Inv := by
  by_cases hb : b = Config.flag
  · rw [actStop_flag _ hb]
    have hlast : s.position = s.dataLength.toNat + 1 := Nat.succ.inj hstop
    have hf : s.position + 1 ≠ s.fcsPos := by unfold State.fcsPos; omega
    have hstored := h.store_body (b := b) ho hp hd hs (fun hh' => absurd hh' hh) fun hf' => absurd hf' hf
    have hsrc := Nat.lt_succ_of_le (h.srcKnown hs).2.1
    refine State.Inv.answer (hstored.completing hd hs hsrc hstop hh ?_) _ _
    rw [State.store_dataLength, ← hlast, State.store_byteAt_position, hb]
  · obtain ⟨hwf, hwithin⟩ := h.store_buffer ho.2 b
    rw [actStop_other _ hb]
    exact State.drop_inv hwf hwithin _

/-! ## FEED, every instruction, every step -/

theorem State.Inv.feedByte {s : State} (h : s.Inv) (b : Byte) : (feedByte b s).Inv := by
  apply feedByte_cases
  case ignore => exact fun _ _ => h.answer _ _
  case release => exact fun _ _ => h.clear.answer _ _
  case reopen =>
    rintro _ rfl
    exact (h.clear.store_flag rfl).answer _ _
  case dup => exact fun _ _ => h.answer _ _
  case start =>
    rintro _ hp rfl
    exact (h.store_flag hp).answer _ _
  case fmt => exact fun _ hp _ => actFmt_inv h hp b
  case len => exact fun ho hp => actLen_inv h ho hp b
  case dst => exact fun ho hp hd => actDst_inv h ho hp hd b
  case src => exact fun ho hp hd hs => actSrc_inv h ho hp hd hs b
  case hcs => exact fun ho hp hd hs hh => actHcs_inv h ho hp hd hs hh b
  case fcs => exact fun ho hp hd hs hh hf => actFcs_inv h ho hp hd hs hh hf b
  case stop => exact fun ho hp hd hs hh hstop => actStop_inv h ho hp hd hs hh hstop b
  case store =>
    intro ho hp hd hs hh hf _
    exact (h.store_body ho hp hd hs (fun hh' => absurd hh' hh) fun hf' => absurd hf' hf).answer _ _

theorem State.Inv.exec {i : Instr} {s t : State} (h : s.Inv) (ht : exec i s = .next t) : t.Inv := by
  induction i using Instr.cases_subOp with
  | clear => cases ht; exact h.clear.output _
  | feed b => cases ht; exact h.feedByte b
  | getraw =>
    obtain ⟨_, rfl⟩ := execGetraw_next ht
    exact h.output _
  | crc16 bytes start length =>
    obtain ⟨_, rfl⟩ := execCrc16_next ht
    exact h.output _
  | crcstep fcs b => cases ht; exact h.output _
  | crc16Table index => cases ht; exact h.output _
  | isvalid buf => cases ht; exact h.output _
  | sub sub b =>
    obtain ⟨-, rfl⟩ := exec_sub_next ht
    exact h.feedByte b

/-- What a step that goes on has done: nothing, or one instruction with its bytes taken from the inbox (R54 (d)). -/
theorem step_next {s t : State} (h : step s = .next t) :
    t = s ∨ ∃ i rest, exec i { s with inbox := rest } = .next t := by
  unfold step at h
  split at h
  · cases h
    exact .inl rfl
  · split at h
    · next i rest _ => exact .inr ⟨i, rest, h⟩
    · cases h

/-- Settles O6, over what a step does. -/
theorem stepKeepsTheInvariants : Obligations.StepKeepsTheInvariants := by
  intro s t h ht
  obtain rfl | ⟨i, rest, hexec⟩ := step_next ht
  · exact h
  · exact (h.inbox rest).exec hexec

end Sys2Proof.Machine
end

section
/-! SUPPORT. The bit `complete` (R27): after a FEED it is the output `done`, and no other instruction sets it. -/

namespace Sys2Proof.Machine

/-! ## FEED leaves `complete` as its output `done` -/

/-- `t` holds no complete frame, and is answered by a FEED that says so. -/
structure Unfinished (t : State) : Prop where
  complete : t.complete = false
  output : ∃ cause, t.output = .feed false cause

theorem unfinished_answer {s : State} (h : s.complete = false) (cause : DropCause) :
    Unfinished (s.answer false cause) := ⟨h, cause, rfl⟩

theorem unfinished_drop (s : State) (cause : DropCause) : Unfinished (s.drop cause) := ⟨rfl, cause, rfl⟩

section
variable {s : State} (h : s.complete = false) (b : Byte)
include h

theorem actFmt_unfinished : Unfinished (actFmt b s) := by
  unfold actFmt
  split
  · exact unfinished_drop s _
  · exact ⟨h, _, rfl⟩

theorem actLen_unfinished : Unfinished (actLen s) := ⟨h, _, rfl⟩

theorem actDst_unfinished : Unfinished (actDst b s) := by
  unfold actDst
  split
  · exact unfinished_drop s _
  · split <;> exact ⟨h, _, rfl⟩

theorem actSrc_unfinished : Unfinished (actSrc b s) := by
  unfold actSrc
  split
  · exact unfinished_drop s _
  · split <;> exact ⟨h, _, rfl⟩

theorem actHcs_unfinished : Unfinished (actHcs s) := by
  unfold actHcs
  split
  · exact unfinished_answer h _
  · exact unfinished_drop s _

theorem actFcs_unfinished : Unfinished (actFcs s) := by
  unfold actFcs
  split
  · exact unfinished_answer h _
  · exact unfinished_drop s _

end

/-- FEED of `b` at `s` is FEED.STOP of the flag, and `t` is the completed frame it answers (R134). -/
structure Stops (b : Byte) (s t : State) : Prop where
  flag : b = Config.flag
  selected : select s b = .stop
  atStop : s.position + 1 = s.stopPos
  result : t = State.answer { s.store b with complete := true } true .none

theorem feedByte_unfinished_or_stops {s : State} (h : s.Inv) (b : Byte) :
    Unfinished (feedByte b s) ∨ Stops b s (feedByte b s) := by
  have early (hp : s.position ≤ 1) : s.complete = false := (h.fresh hp).2.2.2.2
  have stored (ho : s.open_) : (s.store b).complete = false := h.not_complete ho
  apply feedByte_cases (P := fun t => Unfinished t ∨ Stops b s t)
  case ignore => exact fun hp _ => .inl (unfinished_answer (early (by omega)) _)
  case release => exact fun _ _ => .inl (unfinished_answer rfl _)
  case reopen => exact fun _ _ => .inl (unfinished_answer rfl _)
  case dup => exact fun hp _ => .inl (unfinished_answer (early (by omega)) _)
  case start => exact fun ho _ _ => .inl (unfinished_answer (stored ho) _)
  case fmt => exact fun ho _ _ => .inl (actFmt_unfinished (stored ho) b)
  case len => exact fun ho _ => .inl (actLen_unfinished (stored ho))
  case dst => exact fun ho _ _ => .inl (actDst_unfinished (stored ho) b)
  case src => exact fun ho _ _ _ => .inl (actSrc_unfinished (stored ho) b)
  case hcs => exact fun ho _ _ _ _ => .inl (actHcs_unfinished (stored ho))
  case fcs => exact fun ho _ _ _ _ _ => .inl (actFcs_unfinished (stored ho))
  case stop =>
    intro ho hp hd hs hh hstop
    by_cases hb : b = Config.flag
    · exact .inr ⟨hb, select_stop b ho hp hd hs hh hstop, hstop, actStop_flag _ hb⟩
    · rw [actStop_other _ hb]
      exact .inl (unfinished_drop _ _)
  case store => exact fun ho _ _ _ _ _ _ => .inl (unfinished_answer (stored ho) _)

/-- Settles O42: `done` is answered by the stop flag, which sets the bit, and every other FEED leaves it false. -/
theorem completeBitIsTheLastDone : Obligations.CompleteBitIsTheLastDone := by
  intro s t b done cause h ht hout
  cases ht
  obtain ⟨hc, _, hout'⟩ | hstops := feedByte_unfinished_or_stops h b
  · cases hout.symm.trans hout'
    exact hc
  · rw [hstops.result] at hout ⊢
    cases hout
    rfl

/-! ## Where `complete` rises -/

/-- An attempt that FEED.STOP is selected for is not complete: the pre-reset has priority over it. -/
theorem not_complete_of_select_stop {s : State} {b : Byte} (h : s.Inv) (hsel : select s b = .stop) :
    s.complete = false := by
  refine h.not_complete (s.open_of_not fun hended => ?_)
  rw [select_ended b hended] at hsel
  cases hsel

/-- A FEED, or the sub-operation it selects, that leaves `complete` set has just completed a frame. -/
theorem feedByte_complete {s : State} {b : Byte} (h : s.Inv) (hc : (feedByte b s).complete = true) :
    s.complete = false ∧ Stops b s (feedByte b s) := by
  obtain hu | hstops := feedByte_unfinished_or_stops h b
  · exact absurd hu.complete (by simp [hc])
  · exact ⟨not_complete_of_select_stop h hstops.selected, hstops⟩

theorem Stops.output_position {b : Byte} {s t : State} (h : Stops b s t) :
    t.output = .feed true .none ∧ t.position = s.position + 1 := by
  rw [h.result]
  exact ⟨rfl, rfl⟩

/-- Settles O43: CLEAR resets the bit, the operations that only answer keep it, and FEED sets it at the stop flag
alone. -/
theorem completionHasOneSource : Obligations.CompletionHasOneSource := by
  intro i s t h ht hc
  induction i using Instr.cases_subOp with
  | clear =>
    cases ht
    cases hc
  | feed b =>
    cases ht
    obtain ⟨hnot, hstops⟩ := feedByte_complete h hc
    exact .inr ⟨hnot, hstops.output_position.1, hstops.output_position.2, hstops.atStop, .inl (hstops.flag ▸ rfl)⟩
  | getraw =>
    obtain ⟨_, rfl⟩ := execGetraw_next ht
    exact .inl ⟨hc, rfl⟩
  | crc16 bytes start length =>
    obtain ⟨_, rfl⟩ := execCrc16_next ht
    exact .inl ⟨hc, rfl⟩
  | crcstep fcs b => cases ht; exact .inl ⟨hc, rfl⟩
  | crc16Table index => cases ht; exact .inl ⟨hc, rfl⟩
  | isvalid buf => cases ht; exact .inl ⟨hc, rfl⟩
  | sub sub b =>
    obtain ⟨hsel, rfl⟩ := exec_sub_next ht
    obtain ⟨hnot, hstops⟩ := feedByte_complete h hc
    have hsub : sub = .stop := hsel.symm.trans hstops.selected
    exact .inr ⟨hnot, hstops.output_position.1, hstops.output_position.2, hstops.atStop,
      .inr (hsub ▸ hstops.flag ▸ rfl)⟩

end Sys2Proof.Machine
end

section
/-! SUPPORT. Buffers in canonical form are determined by what they read as (log 2). -/

namespace Sys2Proof.Machine

theorem Memory.read_cons (k : Nat) (v : Byte) (m : Memory) (a : Nat) :
    Memory.read ((k, v) :: m) a = if k = a then v else Memory.read m a := rfl

/-- Below every listed offset nothing is listed. -/
theorem Memory.read_below {m : Memory} {a : Nat} (h : ∀ c ∈ m, a < c.1) : Memory.read m a = unwrittenByte := by
  induction m with
  | nil => rfl
  | cons c t ih =>
    obtain ⟨hc, ht⟩ := List.forall_mem_cons.1 h
    rw [Memory.read_cons, if_neg hc.ne', ih ht]

/-- The first offset of a canonical buffer is not below that of another that reads the same. -/
theorem Memory.first_le {k k' : Nat} {v v' : Byte} {t t' : Memory} (hwf : Memory.wf ((k, v) :: t) = true)
    (hwf' : Memory.wf ((k', v') :: t') = true)
    (hread : Memory.read ((k, v) :: t) k = Memory.read ((k', v') :: t') k) : k' ≤ k := by
  by_contra hlt
  obtain ⟨hv, -, -⟩ := (Memory.wf_cons k v t).1 hwf
  obtain ⟨-, hk', -⟩ := (Memory.wf_cons k' v' t').1 hwf'
  have hbelow : Memory.read ((k', v') :: t') k = unwrittenByte :=
    Memory.read_below (List.forall_mem_cons.2 ⟨by simpa using hlt, fun c hc => by have := hk' c hc; omega⟩)
  rw [Memory.read_cons, if_pos rfl, hbelow] at hread
  exact hv hread

theorem Memory.eq_of_read_eq {m m' : Memory} (hwf : Memory.wf m = true) (hwf' : Memory.wf m' = true)
    (hread : ∀ a, Memory.read m a = Memory.read m' a) : m = m' := by
  induction m generalizing m' with
  | nil =>
    cases m' with
    | nil => rfl
    | cons c' t' =>
      obtain ⟨k', v'⟩ := c'
      have h := hread k'
      rw [Memory.read_nil, Memory.read_cons, if_pos rfl] at h
      exact absurd h.symm ((Memory.wf_cons k' v' t').1 hwf').1
  | cons c t ih =>
    obtain ⟨k, v⟩ := c
    cases m' with
    | nil =>
      have h := hread k
      rw [Memory.read_nil, Memory.read_cons, if_pos rfl] at h
      exact absurd h ((Memory.wf_cons k v t).1 hwf).1
    | cons c' t' =>
      obtain ⟨k', v'⟩ := c'
      obtain rfl : k = k' :=
        le_antisymm (Memory.first_le hwf' hwf (hread k').symm) (Memory.first_le hwf hwf' (hread k))
      obtain ⟨-, hk, ht⟩ := (Memory.wf_cons k v t).1 hwf
      obtain ⟨-, hk', ht'⟩ := (Memory.wf_cons k v' t').1 hwf'
      have hv : v = v' := by simpa [Memory.read_cons] using hread k
      have htail : t = t' := by
        refine ih ht ht' fun a => ?_
        by_cases ha : k = a
        · rw [← ha, Memory.read_below hk, Memory.read_below hk']
        · simpa [Memory.read_cons, ha] using hread a
      rw [hv, htail]

/-- Settles O13. -/
theorem canonicalBuffersAreEqualData : Obligations.CanonicalBuffersAreEqualData :=
  fun _ _ => Memory.eq_of_read_eq

end Sys2Proof.Machine
end

section
/-! SUPPORT. What no instruction reads: the outputs of an earlier one (R20, R191), and buffer bytes at or above the
cursor (R38). -/

namespace Sys2Proof.Machine

/-! ## The outputs of an earlier instruction -/

theorem runSub_output_irrelevant (sub : SubOp) (b : Byte) (s : State) (o : Output) :
    runSub sub b { s with output := o } = runSub sub b s := by
  cases sub <;> rfl

theorem select_output_irrelevant (b : Byte) (s : State) (o : Output) :
    select { s with output := o } b = select s b := rfl

theorem exec_output_irrelevant (i : Instr) (s : State) (o : Output) : exec i { s with output := o } = exec i s := by
  induction i using Instr.cases_subOp with
  | clear => rfl
  | feed b =>
    rw [exec_feed, exec_feed, feedByte_eq_runSub_select, feedByte_eq_runSub_select, select_output_irrelevant,
      runSub_output_irrelevant]
  | getraw => rfl
  | crc16 bytes start length => rfl
  | crcstep fcs b => rfl
  | crc16Table index => rfl
  | isvalid buf => rfl
  | sub sub b => rw [exec_sub, exec_sub, select_output_irrelevant, runSub_output_irrelevant]

/-- Settles O11: every instruction answers the same with another output in the state. -/
theorem outputsAreNeverRead : Obligations.OutputsAreNeverRead := by
  intro i s o
  rw [exec_output_irrelevant]
  exact ⟨fun _ => id, fun _ => id, fun _ => id⟩

/-! ## Bytes at or above the cursor: the updates -/

/-- `t` is `s` with another buffer that reads the same below the cursor. -/
theorem State.AgreesBelow.exists_buffer {s t : State} (h : s.AgreesBelow t) :
    ∃ m, t = { s with buffer := m } ∧ ∀ a, a < s.position → Memory.read m a = s.byteAt a :=
  ⟨t.buffer, h.1, h.2⟩

theorem State.AgreesBelow.output {s t : State} (h : s.AgreesBelow t) (o : Output) :
    State.AgreesBelow { s with output := o } { t with output := o } := by
  obtain ⟨m, rfl, hm⟩ := h.exists_buffer
  exact ⟨rfl, hm⟩

theorem State.AgreesBelow.answer {s t : State} (h : s.AgreesBelow t) (done : Bool) (cause : DropCause) :
    (s.answer done cause).AgreesBelow (t.answer done cause) := h.output _

theorem State.AgreesBelow.clear {s t : State} (h : s.AgreesBelow t) : s.clear.AgreesBelow t.clear := by
  obtain ⟨m, rfl, -⟩ := h.exists_buffer
  exact ⟨rfl, fun a ha => absurd ha (Nat.not_lt_zero a)⟩

theorem State.AgreesBelow.drop {s t : State} (h : s.AgreesBelow t) (cause : DropCause) :
    (s.drop cause).AgreesBelow (t.drop cause) := h.clear.answer _ _

/-- The stored byte is the one at the old cursor in both. -/
theorem State.AgreesBelow.store {s t : State} (h : s.AgreesBelow t) (b : Byte) :
    (s.store b).AgreesBelow (t.store b) := by
  obtain ⟨m, rfl, hm⟩ := h.exists_buffer
  refine ⟨rfl, fun a ha => ?_⟩
  rw [s.store_byteAt, State.store_byteAt]
  split
  · rfl
  · next hne => exact hm a (Nat.lt_of_le_of_ne (Nat.lt_succ_iff.1 ha) hne)

theorem State.AgreesBelow.ite {c : Prop} [Decidable c] {s s' t t' : State} (h : s.AgreesBelow t)
    (h' : s'.AgreesBelow t') : (if c then s else s').AgreesBelow (if c then t else t') := by
  split
  · exact h
  · exact h'

/-! ## Bytes at or above the cursor: the rules of FEED -/

section
variable {s t : State} (h : s.AgreesBelow t) (b : Byte)
include h

theorem select_agrees : select t b = select s b := by
  obtain ⟨m, rfl, -⟩ := h.exists_buffer
  rfl

theorem actRestart_agrees : (actRestart b s).AgreesBelow (actRestart b t) := by
  have hcause : preResetCause t = preResetCause s := by
    obtain ⟨m, rfl, -⟩ := h.exists_buffer
    rfl
  unfold actRestart actStart
  rw [hcause]
  exact (h.clear.answer _ _).ite ((h.clear.store b).answer _ _)

theorem actFmt_agrees : (actFmt b s).AgreesBelow (actFmt b t) := by
  obtain ⟨m, rfl, hm⟩ := h.exists_buffer
  exact (h.drop _).ite ⟨rfl, hm⟩

theorem actLen_agrees (hp : 3 ≤ s.position) : (actLen s).AgreesBelow (actLen t) := by
  unfold actLen
  rw [h.2 1 (by omega), h.2 2 (by omega)]
  obtain ⟨m, rfl, hm⟩ := h.exists_buffer
  exact ⟨rfl, hm⟩

theorem actDst_agrees : (actDst b s).AgreesBelow (actDst b t) := by
  obtain ⟨m, rfl, hm⟩ := h.exists_buffer
  exact (h.drop _).ite (State.AgreesBelow.ite ⟨rfl, hm⟩ (h.answer _ _))

theorem actSrc_agrees : (actSrc b s).AgreesBelow (actSrc b t) := by
  obtain ⟨m, rfl, hm⟩ := h.exists_buffer
  exact (h.drop _).ite (State.AgreesBelow.ite ⟨rfl, hm⟩ (h.answer _ _))

/-- A checksum is compared below the cursor. -/
theorem crcCheck_agrees (hp : 3 ≤ s.position) :
    crcCheck t.byteAt (t.position - 3) = crcCheck s.byteAt (s.position - 3) := by
  have hpos : t.position = s.position := by rw [h.1]
  rw [hpos]
  exact crcCheck_congr _ _ _ fun a _ ha => h.2 a (by omega)

theorem actHcs_agrees (hp : 3 ≤ s.position) : (actHcs s).AgreesBelow (actHcs t) := by
  unfold actHcs
  rw [crcCheck_agrees h hp]
  exact (h.answer _ _).ite (h.drop _)

theorem actFcs_agrees (hp : 3 ≤ s.position) : (actFcs s).AgreesBelow (actFcs t) := by
  unfold actFcs
  rw [crcCheck_agrees h hp]
  exact (h.answer _ _).ite (h.drop _)

theorem actStop_agrees : (actStop b s).AgreesBelow (actStop b t) := by
  obtain ⟨m, rfl, hm⟩ := h.exists_buffer
  exact State.AgreesBelow.ite ⟨rfl, hm⟩ (h.drop _)

theorem runSub_select_agrees : (runSub (select s b) b s).AgreesBelow (runSub (select s b) b t) := by
  have reads (hsel : select s b = .len ∨ select s b = .hcs ∨ select s b = .fcs) : 3 ≤ (s.store b).position :=
    Nat.succ_le_succ (two_le_position_of_select hsel)
  have hstored := h.store b
  cases hsel : select s b with
  | ignore => exact h.answer _ _
  | restart => exact actRestart_agrees h b
  | dup => exact h.answer _ _
  | start => exact hstored.answer _ _
  | fmt => exact actFmt_agrees hstored b
  | len => exact actLen_agrees hstored (reads (.inl hsel))
  | dst => exact actDst_agrees hstored b
  | src => exact actSrc_agrees hstored b
  | hcs => exact actHcs_agrees hstored (reads (.inr (.inl hsel)))
  | fcs => exact actFcs_agrees hstored (reads (.inr (.inr hsel)))
  | stop => exact actStop_agrees hstored b
  | store => exact hstored.answer _ _

theorem feedByte_agrees : (feedByte b s).AgreesBelow (feedByte b t) := by
  rw [feedByte_eq_runSub_select b s, feedByte_eq_runSub_select b t, select_agrees h b]
  exact runSub_select_agrees h b

end

/-! ## Bytes at or above the cursor: every instruction -/

/-- The payload of a complete frame lies below the cursor. -/
theorem payloadSlice_agrees {s t : State} (hinv : s.Inv) (hc : s.complete = true) (h : s.AgreesBelow t) :
    payloadSlice t = payloadSlice s := by
  have hend : s.position = s.dataLength.toNat + 2 := (hinv.completed hc).2.1
  have hspan : spanOf t.byteAt s.payOff s.payLen = spanOf s.byteAt s.payOff s.payLen := by
    refine spanOf_congr _ _ _ _ fun a hlo hhi => h.2 a ?_
    unfold State.payOff at hlo hhi
    unfold State.payLen at hhi
    omega
  obtain ⟨m, rfl, -⟩ := h.exists_buffer
  exact congrArg (Slice.mk s.payOff s.payLen) hspan

/-- Outcomes that are equal but for buffer bytes at or above the cursor of a next state. -/
inductive OutcomesAgree : Host.Outcome State Fault Refusal → Host.Outcome State Fault Refusal → Prop where
  | next {s t : State} (h : s.AgreesBelow t) : OutcomesAgree (.next s) (.next t)
  | fault (r : Fault) : OutcomesAgree (.fault r) (.fault r)
  | refused (r : Refusal) : OutcomesAgree (.refused r) (.refused r)

theorem OutcomesAgree.ite {c : Prop} [Decidable c] {o o' p p' : Host.Outcome State Fault Refusal}
    (h : c → OutcomesAgree o p) (h' : ¬c → OutcomesAgree o' p') :
    OutcomesAgree (if c then o else o') (if c then p else p') := by
  split
  · next hc => exact h hc
  · next hc => exact h' hc

theorem OutcomesAgree.of_next {s : State} {o : Host.Outcome State Fault Refusal} (h : OutcomesAgree (.next s) o) :
    ∃ t, o = .next t ∧ s.AgreesBelow t := by
  cases h with
  | next h => exact ⟨_, rfl, h⟩

theorem OutcomesAgree.of_fault {r : Fault} {o : Host.Outcome State Fault Refusal} (h : OutcomesAgree (.fault r) o) :
    o = .fault r := by
  cases h
  rfl

theorem OutcomesAgree.of_refused {r : Refusal} {o : Host.Outcome State Fault Refusal}
    (h : OutcomesAgree (.refused r) o) : o = .refused r := by
  cases h
  rfl

theorem execGetraw_agrees {s t : State} (hinv : s.Inv) (h : s.AgreesBelow t) :
    OutcomesAgree (execGetraw s) (execGetraw t) := by
  have hslice := fun hc => payloadSlice_agrees hinv hc h
  obtain ⟨m, rfl, -⟩ := h.exists_buffer
  refine .ite (fun _ => .next (h.output _)) fun hc => .ite (fun _ => .next ?_) fun _ => .fault _
  rw [hslice (by simpa using hc)]
  exact h.output _

theorem exec_agrees (i : Instr) {s t : State} (hinv : s.Inv) (h : s.AgreesBelow t) :
    OutcomesAgree (exec i s) (exec i t) := by
  induction i using Instr.cases_subOp with
  | clear => exact .next (h.clear.output _)
  | feed b => exact .next (feedByte_agrees h b)
  | getraw => exact execGetraw_agrees hinv h
  | crc16 bytes start length => exact .ite (fun _ => .next (h.output _)) fun _ => .refused _
  | crcstep fcs b => exact .next (h.output _)
  | crc16Table index => exact .next (h.output _)
  | isvalid buf => exact .next (h.output _)
  | sub sub b =>
    rw [exec_sub, exec_sub, select_agrees h b]
    exact .ite (fun hsel => .next (hsel ▸ runSub_select_agrees h b)) fun _ => .refused _

/-- Settles O47: agreeing states give agreeing outcomes, instruction by instruction. -/
theorem bytesAboveTheCursorAreUnobservable : Obligations.BytesAboveTheCursorAreUnobservable := by
  intro i s t hinv h
  have hout := exec_agrees i hinv h
  exact ⟨fun _ hs => (hs ▸ hout).of_next, fun _ hs => (hs ▸ hout).of_fault, fun _ hs => (hs ▸ hout).of_refused⟩

end Sys2Proof.Machine
end

section
/-! SUPPORT. What FEED writes to the frame buffer (R54 (a), R125): one byte at `storeOffset`, or nothing. -/

namespace Sys2Proof.Machine

/-! ## The rules write no byte of their own -/

section
variable (b : Byte) (s : State)

theorem actFmt_buffer : (actFmt b s).buffer = s.buffer := by
  unfold actFmt
  split <;> rfl

theorem actLen_buffer : (actLen s).buffer = s.buffer := rfl

theorem actDst_buffer : (actDst b s).buffer = s.buffer := by
  unfold actDst
  split
  · rfl
  · split <;> rfl

theorem actSrc_buffer : (actSrc b s).buffer = s.buffer := by
  unfold actSrc
  split
  · rfl
  · split <;> rfl

theorem actHcs_buffer : (actHcs s).buffer = s.buffer := by
  unfold actHcs
  split <;> rfl

theorem actFcs_buffer : (actFcs s).buffer = s.buffer := by
  unfold actFcs
  split <;> rfl

theorem actStop_buffer : (actStop b s).buffer = s.buffer := by
  unfold actStop
  split <;> rfl

/-- The buffer once the byte is stored at the given offset, or nowhere. -/
def State.bufferAfter : Option Nat → Memory
  | some a => Memory.write s.buffer a b
  | none => s.buffer

/-- After a pre-reset the flag is stored at offset 0 and every other byte is ignored (R123). -/
theorem actRestart_buffer : (actRestart b s).buffer = s.bufferAfter b (if b = Config.flag then some 0 else none) := by
  by_cases hb : b = Config.flag
  · rw [actRestart_flag s hb, if_pos hb]
    rfl
  · rw [actRestart_other s hb, if_neg hb]
    rfl

/-! ## The one store -/

theorem feedByte_buffer : (feedByte b s).buffer = s.bufferAfter b (storeOffset s b) := by
  rw [feedByte_eq_runSub_select]
  unfold storeOffset
  cases select s b with
  | ignore => rfl
  | restart => exact actRestart_buffer b s
  | dup => rfl
  | start => rfl
  | fmt => exact actFmt_buffer b (s.store b)
  | len => exact actLen_buffer (s.store b)
  | dst => exact actDst_buffer b (s.store b)
  | src => exact actSrc_buffer b (s.store b)
  | hcs => exact actHcs_buffer (s.store b)
  | fcs => exact actFcs_buffer (s.store b)
  | stop => exact actStop_buffer b (s.store b)
  | store => rfl

end

/-! ## Where it goes -/

/-- The decode table selects FEED.RESTART for a reader that is stale or full, and for no other (rows 2 and 3). -/
theorem select_eq_restart_iff (s : State) (b : Byte) : select s b = .restart ↔ s.mustRestart := by
  rw [s.mustRestart_iff]
  refine ⟨fun hsel => ?_, select_ended b⟩
  by_contra hended
  have ho := s.open_of_not hended
  obtain hp | hp | hp : s.position ≤ 1 ∨ s.position = 2 ∨ 3 ≤ s.position := by omega
  · rw [select_early b hp] at hsel
    split_ifs at hsel
  · rw [select_len b ho hp] at hsel
    cases hsel
  · rw [select_attempt b ho hp] at hsel
    split_ifs at hsel

/-- A store goes to the cursor, or to the start of the buffer after a pre-reset. -/
theorem eq_position_or_zero_of_storeOffset {s : State} {b : Byte} {a : Nat} (ha : storeOffset s b = some a) :
    a = s.position ∨ a = 0 ∧ s.mustRestart := by
  unfold storeOffset at ha
  cases hsel : select s b with rw [hsel] at ha
  | ignore => cases ha
  | dup => cases ha
  | restart =>
    refine .inr ⟨?_, (select_eq_restart_iff s b).1 hsel⟩
    obtain ⟨-, hzero⟩ : b = Config.flag ∧ 0 = a := by simpa using ha
    exact hzero.symm
  | _ => exact .inl (Option.some.inj ha).symm

/-- Settles O38: the buffer after FEED is the one before, or one write to it. -/
theorem feedWritesOneByteAtMost : Obligations.FeedWritesOneByteAtMost := by
  intro s t b ht
  cases ht
  have hread (x : Nat) : (feedByte b s).byteAt x = Memory.read (s.bufferAfter b (storeOffset s b)) x :=
    congrArg (Memory.read · x) (feedByte_buffer b s)
  refine ⟨fun a ha => ?_, fun hnone => ?_⟩
  · rw [ha] at hread
    exact ⟨(hread a).trans (Memory.read_write_same _ _ _), eq_position_or_zero_of_storeOffset ha,
      fun x hx => (hread x).trans (Memory.read_write_other _ _ _ hx)⟩
  · rw [hnone] at hread
    exact hread

end Sys2Proof.Machine
end

section
/-! SUPPORT. Requests against the decode table R80: FEED and its sub-operations name the same effect or none (log 7),
bytes that are no request stop the step (log 5), and words written by hand decode (log 5, 6). -/

namespace Sys2Proof.Machine

/-! ## FEED and its sub-operations -/

/-- Settles O35: both sides run the sub-operation that `select` names, which is selected there. -/
theorem feedIsTheSelectedSubOperation : Obligations.FeedIsTheSelectedSubOperation := by
  intro s b
  rw [exec_feed, feedByte_eq_runSub_select, exec_sub, if_pos rfl]

/-- Settles O36: naming a sub-operation executes it only where it is the selected one. -/
theorem subOperationElsewhereIsRefused : Obligations.SubOperationElsewhereIsRefused := by
  intro s b sub hsub
  rw [exec_sub, if_neg hsub.symm]

/-! ## Bytes that are no request -/

theorem State.idle_eq_false_iff (s : State) : s.idle = false ↔ s.inbox ≠ [] := by
  simp [State.idle]

/-- Settles O3: the reader is not idle and its fetch is the rejection, so the step takes the refusing arm. -/
theorem stepRefusesBytesThatAreNoRequest : Obligations.StepRefusesBytesThatAreNoRequest := by
  intro s why hne hdec
  have hfetch : s.fetch = .rejected why := hdec
  simp [step, s.idle_eq_false_iff.2 hne, hfetch]

/-! ## Words written by hand -/

/-- A table word of 8 bits is FEED of the byte in its bits 7..0 (R80, log 6). -/
theorem decodeTableWord_eight (w : Nat) : decodeTableWord 8 w = some (.feed (BitVec.ofNat 8 w)) := by
  have hbyte : BitVec.ofNat 8 (w % 2 ^ 8) = BitVec.ofNat 8 w := by simp [← BitVec.toNat_inj]
  have hbytes : tableBytes 8 w = encode (.feed (BitVec.ofNat 8 w)) ++ List.replicate 7 0#8 := by
    rw [← hbyte]
    rfl
  have hdec : decode (tableBytes 8 w) = .ok (.feed (BitVec.ofNat 8 w)) (List.replicate 7 0#8) := by
    rw [hbytes]
    exact decode_encode _ _ rfl
  simp only [decodeTableWord, hdec]

/-- Settles O9: the accepted words are table words or encodings; of the two rejected ones the first is the encoding of
FEED.START of a byte other than the flag, and the second has a selector that names no row. -/
theorem requestWordsDecode : Obligations.RequestWordsDecode :=
  ⟨decodeTableWord_eight 0x7E, decodeTableWord_eight 0xA0,
    decode_encode .clear [] rfl, decode_encode .getraw [0x55] rfl,
    decode_encode (.crcstep 0x1234 0xA0) [] rfl, decode_encode (.crc16Table 0x5F) [] rfl,
    decode_encode (.crc16 [0x7E, 0xA0] 1 1) [] rfl, decode_encode (.isvalid [0x7E]) [] rfl,
    decode_encode (.feedStart 0x7E) [] rfl, decode_encode (.feedFmt 0xA3) [] rfl,
    decode_encode_subOp .start 0x55 [], rfl⟩

end Sys2Proof.Machine
end

section
/-! SUPPORT. The register's pass (R103): the one equation that ties the table (R101) and CRCSTEP (R102) to it, and that
it loses nothing, from which R110 follows. -/

namespace Sys2Proof.Machine

/-! ## The pass -/

/-- One pass of the bit-serial form (R103). -/
def crcPass (x : Word16) : Word16 := if x.getLsbD 0 then (x >>> 1) ^^^ 0x8408#16 else x >>> 1

/-- The test of the construction's loop (R101) is a test of bit 0. -/
theorem and_one_eq_one_iff (x : Word16) : x &&& 1#16 = 1#16 ↔ x.getLsbD 0 = true := by
  rw [BitVec.and_one_eq_setWidth_ofBool_getLsbD]
  cases x.getLsbD 0 <;> decide

/-- A pass moves bit 0 to bit 15: no shift sets bit 15, and the polynomial does. -/
theorem crcPass_getLsbD_last (x : Word16) : (crcPass x).getLsbD 15 = x.getLsbD 0 := by
  unfold crcPass
  split
  · next hbit => simp [hbit]
  · next hbit => simpa using hbit

theorem crcPass_injective : Function.Injective crcPass := by
  intro x y h
  have hzero : x.getLsbD 0 = y.getLsbD 0 := by rw [← crcPass_getLsbD_last, h, crcPass_getLsbD_last]
  have hshift : x >>> 1 = y >>> 1 := by
    unfold crcPass at h
    rw [hzero] at h
    split at h
    · exact (BitVec.xor_left_inj _).1 h
    · exact h
  apply BitVec.eq_of_getLsbD_eq
  intro i _
  cases i with
  | zero => exact hzero
  | succ i => simpa [Nat.add_comm] using congrArg (·.getLsbD i) hshift

/-! ## The table's loop -/

/-- One iteration of the construction (R101) is a pass over the value XORed with any word `z` that agrees with the working
copy in bit 0; the rest of `z` is shifted along. -/
theorem crcPass_xor (value z : Word16) (t : Byte) (h : t.getLsbD 0 = z.getLsbD 0) :
    crcPass (value ^^^ z) =
      (if (value ^^^ t.setWidth 16) &&& 1#16 = 1#16 then (value >>> 1) ^^^ Config.crcPoly else value >>> 1) ^^^
        (z >>> 1) := by
  have hbit : (value ^^^ t.setWidth 16) &&& 1#16 = 1#16 ↔ (value ^^^ z).getLsbD 0 = true := by
    rw [and_one_eq_one_iff, BitVec.getLsbD_xor, BitVec.getLsbD_xor, BitVec.getLsbD_setWidth, h]
    simp
  simp only [crcPass, hbit, BitVec.ushiftRight_xor_distrib]
  split
  · rw [BitVec.xor_assoc, BitVec.xor_assoc, BitVec.xor_comm (z >>> 1)]
  · rfl

/-- `k` iterations of the construction are `k` passes over `value XOR z`, up to what is left of `z`. -/
theorem crcPass_iterate_xor (k : Nat) (value z : Word16) (t : Byte) (h : ∀ i < k, t.getLsbD i = z.getLsbD i) :
    crcPass^[k] (value ^^^ z) = crcTableLoop k value t ^^^ (z >>> k) := by
  induction k generalizing value z t with
  | zero => simp [crcTableLoop]
  | succ k ih =>
    have htail : ∀ i < k, (t >>> 1).getLsbD i = (z >>> 1).getLsbD i := fun i hi => by
      simpa using h (1 + i) (by omega)
    rw [Function.iterate_succ_apply, crcPass_xor value z t (h 0 (by omega)), ih _ _ _ htail, ← BitVec.shiftRight_add,
      Nat.add_comm 1 k]
    rfl

/-- Eight passes over a word: its low byte selects the table entry, its high byte moves down. -/
theorem crcPass_eight (z : Word16) : crcPass^[8] z = crcTable (z.setWidth 8) ^^^ (z >>> 8) := by
  have h := crcPass_iterate_xor 8 0#16 z (z.setWidth 8) fun i hi => by simp [hi]
  rwa [BitVec.zero_xor] at h

/-- The construction of R101 equals the more common one. -/
theorem crcTable_eq_passes (i : Byte) : crcTable i = crcPass^[8] (i.setWidth 16) := by
  have hlow : (i.setWidth 16).setWidth 8 = i := by simp
  have hhigh : (i.setWidth 16) >>> 8 = 0#16 := by ext j hj; simp
  rw [crcPass_eight, hlow, hhigh, BitVec.xor_zero]

/-! ## CRCSTEP -/

/-- Narrowing to a byte already masks (R102). -/
theorem crcStep_eq (fcs : Word16) (b : Byte) :
    crcStep fcs b = (fcs >>> 8) ^^^ crcTable ((fcs ^^^ b.setWidth 16).setWidth 8) := by
  have hmask (x : Word16) : (x &&& 0x00FF#16).setWidth 8 = x.setWidth 8 := by
    rw [BitVec.setWidth_and]
    exact BitVec.and_allOnes
  rw [crcStep, hmask]

/-- The byte does not reach the register's high byte. -/
theorem xor_byte_shift (fcs : Word16) (b : Byte) : (fcs ^^^ b.setWidth 16) >>> 8 = fcs >>> 8 := by
  ext j hj
  simp

/-- CRCSTEP in its bit-serial form (R103). -/
theorem crcStep_eq_passes (fcs : Word16) (b : Byte) : crcStep fcs b = crcPass^[8] (fcs ^^^ b.setWidth 16) := by
  rw [crcPass_eight, xor_byte_shift, crcStep_eq, BitVec.xor_comm]

theorem crcStep_injective_byte (fcs : Word16) : Function.Injective (crcStep fcs) := by
  intro b b' h
  simp only [crcStep_eq_passes] at h
  have hwide : b.setWidth 16 = b'.setWidth 16 := (BitVec.xor_right_inj _).1 (crcPass_injective.iterate 8 h)
  simpa using congrArg (BitVec.setWidth 8) hwide

theorem crcStep_injective_register (b : Byte) : Function.Injective (crcStep · b) := by
  intro fcs fcs' h
  simp only [crcStep_eq_passes] at h
  exact (BitVec.xor_left_inj _).1 (crcPass_injective.iterate 8 h)

end Sys2Proof.Machine
end

section
/-! SUPPORT. The Checksum Engine's operations (R101 to R106), and what follows from R110 and R103 for whole messages. -/

namespace Sys2Proof.Machine

/-! ## CRC16.TABLE and CRCSTEP -/

/-- Settles O14: the construction is eight passes over the index; the four corner cases are evaluated. -/
theorem tableEntries : Obligations.TableEntries :=
  ⟨fun index _ => ⟨_, rfl, crcTable_eq_passes index⟩, by decide⟩

/-- Settles O15: CRCSTEP answers `crcStep`, whose mask the narrowing to a byte makes redundant. -/
theorem crcstepIsTheTableStep : Obligations.CrcstepIsTheTableStep := by
  intro fcs b s
  rw [← crcStep_eq]
  rfl

/-- Settles O16: eight passes split into the table entry of the low byte and the shifted high byte. -/
theorem crcstepIsBitSerial : Obligations.CrcstepIsBitSerial :=
  fun fcs b _ => ⟨_, rfl, crcStep_eq_passes fcs b⟩

/-- Settles O19: a pass is injective, so eight of them are, and so is XOR with either operand. -/
theorem crcstepIsInjective : Obligations.CrcstepIsInjective :=
  ⟨fun fcs _ _ h => crcStep_injective_byte fcs h, fun _ _ b h => crcStep_injective_register b h⟩

/-! ## CRC16 -/

/-- Settles O17, with the register over the first `k` bytes of the span as `run k`. -/
theorem checksumIsTheRunningRegister : Obligations.ChecksumIsTheRunningRegister := by
  intro bytes start length s hspan
  refine ⟨fun k => crcRun (spanOf (listAt bytes) start k), rfl, fun k _ => ?_, if_pos hspan⟩
  simp only [crcRun_span_succ]
  rfl

/-- Settles O18: the span's bound fails, so CRC16 takes its refusing branch. -/
theorem checksumOutsideItsBytesIsRefused : Obligations.ChecksumOutsideItsBytesIsRefused :=
  fun _ _ _ _ h => if_neg (Nat.not_le.2 h)

/-! ## Whole messages -/

/-- Different registers stay different over the same bytes. -/
theorem foldl_crcStep_injective (bytes : List Byte) : Function.Injective (bytes.foldl crcStep) := by
  induction bytes with
  | nil => exact Function.injective_id
  | cons b bytes ih => exact ih.comp (crcStep_injective_register b)

/-- Settles O20: the registers before the changed byte are equal, after it different, and stay so to the end. -/
theorem oneChangedByteChangesTheChecksum : Obligations.OneChangedByteChangesTheChecksum := by
  intro before after b b' hne h
  have hrun : crcRun (before ++ b :: after) = crcRun (before ++ b' :: after) := (BitVec.xor_left_inj _).1 h
  simp only [crcRun, List.foldl_append, List.foldl_cons] at hrun
  exact hne (crcStep_injective_byte _ (foldl_crcStep_injective after hrun))

/-- The register after a register's own complement, low byte first, is the residue F0B8 (R109): at the second byte what is
left of the register cancels. -/
theorem crcStep_complement_hi (r : Word16) :
    crcStep ((r >>> 8) ^^^ 0x0F78#16) (((r ^^^ 0xFFFF#16) >>> 8).setWidth 8) = 0xF0B8#16 := by
  have hcancel : ((r >>> 8) ^^^ 0x0F78#16) ^^^ (((r ^^^ 0xFFFF#16) >>> 8).setWidth 8).setWidth 16 = 0x0F87#16 := by
    apply BitVec.eq_of_getLsbD_eq
    intro i hi
    interval_cases i <;> simp
  rw [crcStep_eq_passes, hcancel]
  decide

theorem crcRun_append_wordBytes_crcOf (m : List Byte) : crcRun (m ++ wordBytes (crcOf m)) = 0xF0B8#16 := by
  calc crcRun (m ++ wordBytes (crcOf m))
      = crcStep (crcStep (crcRun m) ((crcOf m).setWidth 8)) (((crcOf m) >>> 8).setWidth 8) := by
        simp [crcRun, wordBytes]
    _ = 0xF0B8#16 := by rw [crcOf_eq, crcStep_complement_lo, crcStep_complement_hi]

/-- Settles O21: the register ends in the residue F0B8 whatever the message, and F0B8 XOR FFFF is 0F47. -/
theorem residueIsConstant : Obligations.ResidueIsConstant := by
  intro m
  rw [crcOf_eq, crcRun_append_wordBytes_crcOf]
  rfl

/-! ## STOREDCRC -/

theorem littleEndian_toNat (lo hi : Byte) : (littleEndian lo hi).toNat = lo.toNat + 256 * hi.toNat := by
  rw [← append_eq_littleEndian, BitVec.toNat_append, ← Nat.shiftLeft_add_eq_or_of_lt lo.isLt, Nat.shiftLeft_eq]
  omega

/-- Settles O22: the two bytes of R106 as a word, read as a number. -/
theorem storedChecksumIsLittleEndian : Obligations.StoredChecksumIsLittleEndian :=
  fun _ _ => littleEndian_toNat _ _

end Sys2Proof.Machine
end

section
/-! SUPPORT. FEED one sub-operation at a time (R121 to R135): the row of R80 that a state and a byte select, and the case
of that row's rule. -/

namespace Sys2Proof.Machine

/-! ## The attempt in progress, and the rows of R80 on it -/

theorem State.open_of_not_mustRestart {s : State} (h : ¬s.mustRestart) : s.open_ :=
  s.open_of_not fun hended => h (s.mustRestart_iff.2 hended)

/-- Until the length is captured a reader is neither stale nor full, whatever `dataLength` is. -/
theorem State.open_of_position_le_two {s : State} (h : s.position ≤ 2) : s.open_ := by
  have := s.cap.three_le
  exact ⟨s.stale_false_iff.2 fun hL => by omega, by omega⟩

theorem select_ignore {s : State} {b : Byte} (hp : s.position = 0) (hb : b ≠ Config.flag) : select s b = .ignore := by
  rw [select_early b (by omega), if_pos hp, if_neg hb]

theorem select_start {s : State} (hp : s.position = 0) : select s Config.flag = .start := by
  rw [select_early _ (by omega), if_pos hp, if_pos rfl]

theorem select_dup {s : State} (hp : s.position = 1) : select s Config.flag = .dup := by
  rw [select_early _ (by omega), if_neg (by omega), if_pos rfl]

theorem select_fmt {s : State} {b : Byte} (hp : s.position = 1) (hb : b ≠ Config.flag) : select s b = .fmt := by
  rw [select_early b (by omega), if_neg (by omega), if_neg hb]

section
variable {s : State} (b : Byte) (ho : s.open_) (hp : 3 ≤ s.position)
include ho hp

theorem select_dst (hd : s.dlen.val = 0) : select s b = .dst := by
  rw [select_attempt b ho hp, if_pos hd]

theorem select_src (hd : 0 < s.dlen.val) (hs : s.slen.val = 0) : select s b = .src := by
  rw [select_attempt b ho hp, if_neg hd.ne', if_pos hs]

variable (hd : 0 < s.dlen.val) (hs : 0 < s.slen.val)
include hd hs

theorem select_hcs (hh : s.position + 1 = s.hcsPos) : select s b = .hcs := by
  rw [select_attempt b ho hp, if_neg hd.ne', if_neg hs.ne', if_pos hh]

theorem select_fcs (hh : s.position + 1 ≠ s.hcsPos) (hf : s.position + 1 = s.fcsPos) : select s b = .fcs := by
  rw [select_attempt b ho hp, if_neg hd.ne', if_neg hs.ne', if_neg hh, if_pos hf]

theorem select_store (hh : s.position + 1 ≠ s.hcsPos) (hf : s.position + 1 ≠ s.fcsPos)
    (hstop : s.position + 1 ≠ s.stopPos) : select s b = .store := by
  rw [select_attempt b ho hp, if_neg hd.ne', if_neg hs.ne', if_neg hh, if_neg hf, if_neg hstop]

end

theorem feedByte_of_select {s : State} {b : Byte} {sub : SubOp} (h : select s b = sub) :
    feedByte b s = runSub sub b s := by
  rw [feedByte_eq_runSub_select, h]

/-- FEED and the sub-operation it selects execute the same. -/
theorem exec_selected {s : State} {b : Byte} {sub : SubOp} (h : select s b = sub) :
    exec (.feed b) s = .next (runSub sub b s) ∧ exec (sub.instr b) s = .next (runSub sub b s) := by
  constructor
  · rw [exec_feed, feedByte_of_select h]
  · rw [exec_sub, if_pos h]

/-! ## Idle and Started -/

/-- Settles O23: row 1 of R80. -/
theorem idleIgnoresOtherBytes : Obligations.IdleIgnoresOtherBytes := by
  intro s b hp hb
  exact exec_selected (select_ignore hp hb)

/-- The pre-reset's cause, as the model computes it and as R122 writes it. -/
theorem preResetCause_eq_restartCause (s : State) : preResetCause s = s.restartCause := by
  unfold preResetCause State.restartCause
  simp only [s.stale_iff]

/-- Settles O24: rows 2 and 3 of R80 run FEED.RESTART, which ignores every byte but the flag. -/
theorem endedAttemptIsClearedFirst : Obligations.EndedAttemptIsClearedFirst := by
  intro s b h
  obtain ⟨hfeed, hsub⟩ := exec_selected ((select_eq_restart_iff s b).2 h)
  rw [← preResetCause_eq_restartCause]
  refine ⟨actRestart b s, hfeed, hsub, fun hb => actRestart_other s hb, fun hb => ?_⟩
  subst hb
  exact actRestart_flag s rfl

/-- Settles O25: row 4 of R80. -/
theorem duplicateFlagIsAbsorbed : Obligations.DuplicateFlagIsAbsorbed := by
  rintro s b hp rfl
  exact exec_selected (select_dup hp)

/-- The start flag is stored at offset 0. -/
theorem store_flag_of_idle {s : State} (hp : s.position = 0) :
    s.store Config.flag = { s with buffer := Memory.write s.buffer 0 Config.flag, position := 1 } := by
  unfold State.store
  rw [hp]

/-- Settles O26: row 5 of R80. -/
theorem flagStartsAnAttempt : Obligations.FlagStartsAnAttempt := by
  rintro s b hp rfl
  have hrun := exec_selected (select_start hp)
  rw [runSub, store_flag_of_idle hp] at hrun
  exact hrun

/-- Settles O27: row 6 of R80, with the two outcomes of R128. -/
theorem formatByteIsChecked : Obligations.FormatByteIsChecked := by
  intro s b hp hb
  obtain ⟨hfeed, hsub⟩ := exec_selected (select_fmt hp hb)
  refine ⟨_, hfeed, hsub, fun hvalid => ?_, fun hinvalid => ?_⟩
  · rw [runSub, actFmt_valid _ hvalid, State.store, hp]
    rfl
  · rw [runSub, actFmt_invalid _ hinvalid, State.store, hp]
    rfl

/-! ## The length and the addresses -/

/-- The two length bytes after the store (R129): the one at offset 1 was there, the one at offset 2 is the byte fed. -/
theorem actLen_store {s : State} (b : Byte) (hp : s.position = 2) :
    actLen (s.store b) =
      State.answer { s.store b with dataLength := assembleLength (s.byteAt 1) b } false .none := by
  have hstored : (s.store b).byteAt 2 = b := by rw [← hp, State.store_byteAt_position]
  rw [actLen, s.store_byteAt_other b (by omega), hstored]

/-- Settles O28: row 7 of R80, which no stale or full reader reaches. -/
theorem lengthIsCaptured : Obligations.LengthIsCaptured := by
  intro s b hp
  obtain ⟨hfeed, hsub⟩ := exec_selected (select_len b (State.open_of_position_le_two hp.le) hp)
  refine ⟨_, hfeed, hsub, ?_⟩
  rw [runSub, actLen_store b hp, assembleLength_eq, State.store, hp]
  rfl

/-- Settles O29: row 8 of R80, with the three outcomes of R130. -/
theorem destinationByteIsHandled : Obligations.DestinationByteIsHandled := by
  intro s b hopen hp hd
  have hsel := select_dst b (State.open_of_not_mustRestart hopen) hp (congrArg Fin.val hd)
  obtain ⟨hfeed, hsub⟩ := exec_selected hsel
  refine ⟨_, hfeed, hsub, fun hlong => ?_, fun n hn hb => ?_, fun hshort hb => ?_⟩
  · exact actDst_long b (by simp; omega)
  · exact actDst_last hb n (by simp; omega)
  · exact actDst_more (by simp; omega) hb

/-- Settles O30: row 9 of R80, with the three outcomes of R131. -/
theorem sourceByteIsHandled : Obligations.SourceByteIsHandled := by
  intro s b hopen hd hp hs
  have hsel := select_src b (State.open_of_not_mustRestart hopen) (by omega) hd (congrArg Fin.val hs)
  obtain ⟨hfeed, hsub⟩ := exec_selected hsel
  refine ⟨_, hfeed, hsub, fun hlong => ?_, fun n hn hb => ?_, fun hshort hb => ?_⟩
  · exact actSrc_long b (by simp; omega)
  · exact actSrc_last hb n (by simp; omega)
  · exact actSrc_more (by simp; omega) hb

/-! ## The bytes after the addresses -/

/-- FEED.HCS and FEED.FCS compare the checksum of the `n` bytes before the two that end with the byte just stored. -/
theorem crcCheck_at_cursor {s : State} {b : Byte} {n : Nat} (hp : s.position = n + 2) :
    crcCheck (s.store b).byteAt ((s.store b).position - 3) = true ↔
      crcSpan s.byteAt 1 n = littleEndian (s.byteAt (s.position - 1)) b := by
  rw [State.store_position, hp]
  exact crcCheck_store n hp

/-- Settles O31: row 10 of R80, with the two outcomes of R132. -/
theorem headerChecksumIsChecked : Obligations.HeaderChecksumIsChecked := by
  intro s b hopen hd hs hh
  obtain ⟨hfeed, hsub⟩ := exec_selected
    (select_hcs b (State.open_of_not_mustRestart hopen) (by omega) hd hs hh)
  rw [← crcCheck_at_cursor (by omega)]
  exact ⟨_, hfeed, hsub, actHcs_pass, fun hne => actHcs_fail (mt (crcCheck_at_cursor (by omega)).1 hne)⟩

/-- Settles O32: row 11 of R80, with the two outcomes of R133. -/
theorem fullChecksumIsChecked : Obligations.FullChecksumIsChecked := by
  intro s b hopen hd hs hp hh hf
  obtain ⟨hfeed, hsub⟩ := exec_selected
    (select_fcs b (State.open_of_not_mustRestart hopen) (by omega) hd hs hh hf)
  have hlen : s.position = s.dataLength.toNat := Nat.succ.inj hf
  rw [← hlen, ← crcCheck_at_cursor (by omega)]
  exact ⟨_, hfeed, hsub, actFcs_pass, fun hne => actFcs_fail (mt (crcCheck_at_cursor (by omega)).1 hne)⟩

/-- Settles O33: row 12 of R80, with the two outcomes of R134. -/
theorem stopByteIsChecked : Obligations.StopByteIsChecked := by
  intro s b hopen hd hs hp hh hstop
  obtain ⟨hfeed, hsub⟩ := exec_selected
    (select_stop b (State.open_of_not_mustRestart hopen) (by omega) hd hs hh hstop)
  exact ⟨_, hfeed, hsub, actStop_flag (s.store b), actStop_other (s.store b)⟩

/-- Settles O34: row 13 of R80. -/
theorem otherBytesAreStored : Obligations.OtherBytesAreStored := by
  intro s b hopen hd hs hp hh hf hstop
  exact exec_selected (select_store b (State.open_of_not_mustRestart hopen) (by omega) hd hs hh hf hstop)

end Sys2Proof.Machine
end

section
/-! SUPPORT. FEED as a whole: how it moves the cursor (R140 (f), (h)), when it completes (R138), and sequences of FEEDs. -/

namespace Sys2Proof.Machine

/-! ## The cursor -/

/-- From `s` to `t` a rule of FEED left the cursor where the store left it, or at 0 after a drop. -/
def CursorKept (s t : State) : Prop := t.position = s.position ∨ t.position = 0

section
variable (b : Byte) (s : State)

theorem actFmt_cursor : CursorKept s (actFmt b s) := by
  unfold actFmt
  split
  · exact .inr rfl
  · exact .inl rfl

theorem actDst_cursor : CursorKept s (actDst b s) := by
  unfold actDst
  split
  · exact .inr rfl
  · split <;> exact .inl rfl

theorem actSrc_cursor : CursorKept s (actSrc b s) := by
  unfold actSrc
  split
  · exact .inr rfl
  · split <;> exact .inl rfl

theorem actHcs_cursor : CursorKept s (actHcs s) := by
  unfold actHcs
  split
  · exact .inl rfl
  · exact .inr rfl

theorem actFcs_cursor : CursorKept s (actFcs s) := by
  unfold actFcs
  split
  · exact .inl rfl
  · exact .inr rfl

theorem actStop_cursor : CursorKept s (actStop b s) := by
  unfold actStop
  split
  · exact .inl rfl
  · exact .inr rfl

end

/-- Where FEED of `b` at `s` leaves the cursor `q`: at rest, at 0, one further in an open attempt, or behind a start flag
that follows a pre-reset. -/
inductive CursorMove (b : Byte) (s : State) (q : Nat) : Prop where
  | rest (h : q = s.position)
  | back (h : q = 0)
  | advance (ho : s.open_) (h : q = s.position + 1)
  | restart (hr : s.mustRestart) (hb : b = Config.flag) (h : q = 1)

theorem CursorMove.of_store {b : Byte} {s t : State} (ho : s.open_) (h : CursorKept (s.store b) t) :
    CursorMove b s t.position := h.elim (.advance ho) .back

theorem feedByte_position (b : Byte) (s : State) : CursorMove b s (feedByte b s).position := by
  apply feedByte_cases (P := fun t => CursorMove b s t.position)
  case ignore => exact fun _ _ => .rest rfl
  case release => exact fun _ _ => .back rfl
  case reopen => exact fun hr hb => .restart (s.mustRestart_iff.2 hr) hb rfl
  case dup => exact fun _ _ => .rest rfl
  case start => exact fun ho _ _ => .advance ho rfl
  case fmt => exact fun ho _ _ => .of_store ho (actFmt_cursor b _)
  case len => exact fun ho _ => .advance ho rfl
  case dst => exact fun ho _ _ => .of_store ho (actDst_cursor b _)
  case src => exact fun ho _ _ _ => .of_store ho (actSrc_cursor b _)
  case hcs => exact fun ho _ _ _ _ => .of_store ho (actHcs_cursor _)
  case fcs => exact fun ho _ _ _ _ _ => .of_store ho (actFcs_cursor _)
  case stop => exact fun ho _ _ _ _ _ => .of_store ho (actStop_cursor b _)
  case store => exact fun ho _ _ _ _ _ _ => .advance ho rfl

/-- Settles O39: the cursor advances in an open attempt only, which has room for the byte. -/
theorem feedMovesTheCursor : Obligations.FeedMovesTheCursor := by
  intro s t b ht
  cases ht
  have hcap := s.cap.three_le
  cases feedByte_position b s with
  | rest h => exact ⟨.inl h, fun hp => h ▸ hp⟩
  | back h => exact ⟨.inr (.inr (.inl h)), fun _ => by omega⟩
  | advance ho h => exact ⟨.inr (.inl h), fun _ => h ▸ ho.2⟩
  | restart hr hb h => exact ⟨.inr (.inr (.inr ⟨h, hb, hr⟩)), fun _ => by omega⟩

/-! ## Completion -/

/-- Settles O44: clause (l) of R39 on the completed frame, with the bound of clause (a). -/
theorem completionLengthClasses : Obligations.CompletionLengthClasses := by
  intro s t b cause h ht hout
  cases ht
  have hdone : (feedByte b s).complete = true := completeBitIsTheLastDone s _ b true cause h rfl hout
  have hinv := h.feedByte b
  obtain ⟨-, hend, -, -, -, hmin, hfour, hsix⟩ := hinv.completed hdone
  have hbound := hinv.bound
  unfold State.stopPos at hend
  omega

/-! ## Sequences of FEEDs -/

theorem feedAll_cons (b : Byte) (bytes : List Byte) (s : State) :
    feedAll (b :: bytes) s =
      (feedAll bytes (feedByte b s)).map fun r => ((feedByte b s).output :: r.1, r.2) := rfl

theorem feedAll_append {bytes more : List Byte} {s t u : State} {outs outs' : List Output}
    (h : feedAll bytes s = some (outs, t)) (h' : feedAll more t = some (outs', u)) :
    feedAll (bytes ++ more) s = some (outs ++ outs', u) := by
  induction bytes generalizing s outs with
  | nil =>
    cases h
    exact h'
  | cons b bytes ih =>
    rw [feedAll_cons, Option.map_eq_some_iff] at h
    obtain ⟨⟨outs₀, t₀⟩, hrest, heq⟩ := h
    cases heq
    rw [List.cons_append, feedAll_cons, ih hrest]
    rfl

theorem State.Inv.feedAll {bytes : List Byte} {s t : State} {outs : List Output} (h : s.Inv)
    (ht : feedAll bytes s = some (outs, t)) : t.Inv := by
  induction bytes generalizing s outs with
  | nil =>
    cases ht
    exact h
  | cons b bytes ih =>
    rw [feedAll_cons, Option.map_eq_some_iff] at ht
    obtain ⟨⟨outs₀, t₀⟩, hrest, heq⟩ := ht
    cases heq
    exact ih (h.feedByte b) hrest

/-- A duplicate flag is absorbed and leaves a state that is Started again. -/
theorem feedByte_dup {s : State} (hp : s.position = 1) : feedByte Config.flag s = s.answer false .none :=
  feedByte_of_select (select_dup hp)

/-- By induction on the number of flags: each finds the reader Started. -/
theorem feedAll_flags {s : State} (n : Nat) (hp : s.position = 1) :
    feedAll (List.replicate (n + 1) Config.flag) s =
      some (List.replicate (n + 1) (.feed false .none), s.answer false .none) := by
  induction n generalizing s with
  | zero =>
    rw [List.replicate_one, feedAll_cons, feedByte_dup hp]
    rfl
  | succ n ih =>
    rw [List.replicate_succ, feedAll_cons, feedByte_dup hp, ih (s := s.answer false .none) hp]
    rfl

/-- Settles O45. -/
theorem flagRunsAreAbsorbed : Obligations.FlagRunsAreAbsorbed :=
  fun _ n hp => feedAll_flags n hp

end Sys2Proof.Machine
end

section
/-! SUPPORT. A frame as it arrives: what the reader holds of it after each byte, and the check points at which it can still
be lost (R126 to R135, R140). -/

namespace Sys2Proof.Machine

/-! ## What the buffer holds -/

/-- A run of bytes inside a span. -/
theorem spanOf_infix {f : Nat → Byte} {n : Nat} {before m after : List Byte}
    (h : spanOf f 0 n = before ++ m ++ after) : spanOf f before.length m.length = m := by
  obtain rfl : n = before.length + m.length + after.length := by
    simpa [Nat.add_assoc] using congrArg List.length h
  rw [spanOf_add, spanOf_add, Nat.zero_add] at h
  obtain ⟨hleft, -⟩ := List.append_inj' h (by simp)
  exact List.append_inj_right hleft (by simp)

/-- The bytes below the cursor are `w`, and the length and the address lengths are as given. -/
structure State.Holds (t : State) (w : List Byte) (L d e : Nat) : Prop where
  stored : spanOf t.byteAt 0 t.position = w
  length : t.dataLength.toNat = L
  dst : t.dlen.val = d
  src : t.slen.val = e

section
variable {t : State} {w : List Byte} {L d e : Nat}

theorem State.Holds.position (h : t.Holds w L d e) : t.position = w.length := by
  rw [← h.stored, spanOf_length]

theorem State.Holds.span {before m after : List Byte} (h : t.Holds (before ++ m ++ after) L d e) :
    spanOf t.byteAt before.length m.length = m := spanOf_infix h.stored

theorem State.Holds.byteAt_last {b : Byte} (h : t.Holds (w ++ [b]) L d e) : t.byteAt w.length = b := by
  rw [← List.append_nil (w ++ [b])] at h
  exact List.singleton_injective h.span

/-- The store appends the byte, whatever else is written. -/
theorem State.Holds.stored_store (h : t.Holds w L d e) (b : Byte) :
    spanOf (t.store b).byteAt 0 (t.store b).position = w ++ [b] := by
  have hbelow : spanOf (t.store b).byteAt 0 t.position = spanOf t.byteAt 0 t.position :=
    spanOf_congr _ _ _ _ fun a _ ha => t.store_byteAt_other b (by omega)
  rw [State.store_position, spanOf_succ, hbelow, h.stored, Nat.zero_add, State.store_byteAt_position]

theorem State.Holds.store (h : t.Holds w L d e) (b : Byte) : (t.store b).Holds (w ++ [b]) L d e :=
  ⟨h.stored_store b, h.length, h.dst, h.src⟩

end

/-! ## Frames in the course of arrival -/

/-- The cause that the start flag of a frame answers in a clean state. -/
def State.startCause (s : State) : DropCause := if s.position ≤ 1 then .none else preResetCause s

/-- A frame that has been delivered is released without a cause. -/
theorem State.startCause_of_complete {s : State} (h : s.complete = true) : s.startCause = .none := by
  simp [State.startCause, preResetCause, h]

/-- Fed to `s`, a start flag and then the bytes `m` have led to `t` without completion and without a drop after the flag. -/
structure Received (s : State) (m : List Byte) (L d e : Nat) (t : State) : Prop where
  fed : feedAll (Config.flag :: m) s =
    some (.feed false s.startCause :: List.replicate m.length (.feed false .none), t)
  cap : t.cap = s.cap
  holds : t.Holds (Config.flag :: m) L d e

/-- Fed to `s`, a start flag, the bytes `m` and a stop flag have completed a frame in `t`. -/
structure Delivered (s : State) (m : List Byte) (L d e : Nat) (t : State) : Prop where
  fed : feedAll (Config.flag :: (m ++ [Config.flag])) s =
    some (.feed false s.startCause :: List.replicate m.length (.feed false .none) ++ [.feed true .none], t)
  cap : t.cap = s.cap
  holds : t.Holds (Config.flag :: (m ++ [Config.flag])) L d e
  complete : t.complete = true

section
variable {s t : State} {m : List Byte} {L d e : Nat}

theorem Received.position (h : Received s m L d e t) : t.position = m.length + 1 := by
  rw [h.holds.position, List.length_cons]

/-- One more byte fed. -/
theorem Received.feedAll_append (h : Received s m L d e t) (b : Byte) :
    feedAll (Config.flag :: (m ++ [b])) s =
      some (.feed false s.startCause :: List.replicate m.length (.feed false .none) ++ [(feedByte b t).output],
        feedByte b t) :=
  Machine.feedAll_append (more := [b]) h.fed rfl

/-- One more byte that answers neither completion nor drop. -/
theorem Received.next {b : Byte} {u : State} {L' d' e' : Nat} (h : Received s m L d e t)
    (hfeed : feedByte b t = u.answer false .none) (hu : u.Holds (Config.flag :: m ++ [b]) L' d' e') :
    Received s (m ++ [b]) L' d' e' (feedByte b t) where
  cap := (feedByte_sameHost b t).1.trans h.cap
  fed := by
    rw [h.feedAll_append, hfeed, List.length_append, List.length_singleton, List.replicate_succ']
    rfl
  holds := by
    rw [hfeed]
    exact ⟨hu.stored, hu.length, hu.dst, hu.src⟩

/-! ## The first three bytes -/

/-- A clean reader is Idle, Started, or due for a pre-reset. -/
theorem State.Inv.clean_cases (h : s.Inv) (hclean : s.clean = true) :
    s.position = 0 ∨ s.position = 1 ∨ 1 < s.position ∧ (s.stale = true ∨ s.full = true) := by
  obtain hp | hp : s.position ≤ 1 ∨ 1 < s.position := by omega
  · omega
  · have hended : s.complete = true ∨ s.stale = true ∨ s.full = true := by
      simpa [State.clean, Nat.not_le.2 hp, or_assoc] using hclean
    refine .inr (.inr ⟨hp, hended.elim (fun hc => .inl ?_) id⟩)
    obtain ⟨hL, hend, -⟩ := h.completed hc
    exact s.stale_iff.2 ⟨hL, hend.ge⟩

/-- The flag stored at offset 0 of a reader whose registers are clear. -/
theorem State.Holds.flag {u : State} (hp : u.position = 0) (hL : u.dataLength = 0#12) (hd : u.dlen = 0)
    (hs : u.slen = 0) : (u.store Config.flag).Holds [Config.flag] 0 0 0 := by
  have hempty : u.Holds [] 0 0 0 := ⟨by rw [hp]; rfl, by rw [hL]; rfl, by rw [hd]; rfl, by rw [hs]; rfl⟩
  exact hempty.store _

theorem Received.start_flag (h : s.Inv) (hclean : s.clean = true) : Received s [] 0 0 0 (feedByte Config.flag s) := by
  obtain ⟨u, hfeed, hcap, hu⟩ : ∃ u : State, feedByte Config.flag s = u.answer false s.startCause ∧ u.cap = s.cap ∧
      u.Holds [Config.flag] 0 0 0 := by
    obtain hp | hp | ⟨hp, hended⟩ := h.clean_cases hclean
    · obtain ⟨-, hL, hd, hs, -⟩ := h.fresh (by omega)
      rw [feedByte_of_select (select_start hp), State.startCause, if_pos (by omega)]
      exact ⟨s.store Config.flag, rfl, rfl, .flag hp hL hd hs⟩
    · obtain ⟨-, hL, hd, hs, -⟩ := h.fresh (by omega)
      rw [feedByte_of_select (select_dup hp), State.startCause, if_pos (by omega)]
      refine ⟨s, rfl, rfl, ?_, by rw [hL]; rfl, by rw [hd]; rfl, by rw [hs]; rfl⟩
      rw [hp, spanOf_succ, spanOf_zero, h.startFlag (by omega)]
      rfl
    · rw [feedByte_of_select (select_ended _ hended), State.startCause, if_neg (by omega)]
      exact ⟨s.clear.store Config.flag, actRestart_flag s rfl, rfl, .flag rfl rfl rfl rfl⟩
  refine ⟨?_, by rw [hfeed]; exact hcap, ?_⟩
  · rw [feedAll_cons, hfeed]
    rfl
  · rw [hfeed]
    exact ⟨hu.stored, hu.length, hu.dst, hu.src⟩

theorem Received.format_byte (h : Received s [] 0 0 0 t) {b : Byte} (hb : b &&& Config.fmtMask = Config.fmtValid) :
    Received s [b] 0 0 0 (feedByte b t) := by
  have hflag : b ≠ Config.flag := by
    rintro rfl
    exact absurd hb (by decide)
  refine h.next ((feedByte_of_select (select_fmt h.position hflag)).trans (actFmt_valid _ hb)) ?_
  have hstored := h.holds.store b
  exact ⟨hstored.stored, hstored.length, hstored.dst, hstored.src⟩

theorem Received.length_byte {b₁ b₂ : Byte} (h : Received s [b₁] 0 0 0 t) :
    Received s [b₁, b₂] (assembleLength b₁ b₂).toNat 0 0 (feedByte b₂ t) := by
  have hp : t.position = 2 := h.position
  have hfeed := (feedByte_of_select (select_len b₂ (State.open_of_position_le_two hp.le) hp)).trans (actLen_store b₂ hp)
  refine h.next hfeed ?_
  have hstored := h.holds.store b₂
  have hfirst : t.byteAt 1 = b₁ := State.Holds.byteAt_last (w := [Config.flag]) h.holds
  exact ⟨hstored.stored, by rw [hfirst], hstored.dst, hstored.src⟩

/-! ## Bytes that are stored and nothing more -/

/-- Within a frame that fits the buffer the attempt stays open up to its stop flag. -/
theorem Received.open_ (h : Received s m L d e t) (hfit : L + 2 ≤ s.cap.val) (hm : m.length ≤ L) : t.open_ := by
  have hp := h.position
  refine ⟨t.stale_false_iff.2 fun _ => ?_, ?_⟩
  · rw [h.holds.length]
    omega
  · rw [h.cap]
    omega

/-- With the length and the address lengths given, the byte `b` at offset `p` is stored and nothing more: an even byte of
an address field with room for another, or a byte after the addresses at no check position. -/
inductive Plain (L d e p : Nat) (b : Byte) : Prop where
  | dst (hp : 3 ≤ p) (hd : d = 0) (hroom : p < 6) (hb : odd b = false)
  | src (hp : 3 ≤ p) (hd : 0 < d) (he : e = 0) (hroom : p < 6 + d) (hb : odd b = false)
  | body (hp : 3 ≤ p) (hd : 0 < d) (he : 0 < e) (hh : p + 1 ≠ 6 + d + e) (hf : p ≠ L) (hstop : p ≠ L + 1)

theorem Received.plain {b : Byte} (h : Received s m L d e t) (ho : t.open_) (hb : Plain L d e (m.length + 1) b) :
    Received s (m ++ [b]) L d e (feedByte b t) := by
  refine h.next (u := t.store b) ?_ (h.holds.store b)
  obtain ⟨-, rfl, rfl, rfl⟩ := h.holds
  rw [← h.position] at hb
  cases hb with
  | dst hp hd hroom hb =>
    rw [feedByte_of_select (select_dst b ho hp hd)]
    exact actDst_more hroom hb
  | src hp hd he hroom hb =>
    rw [feedByte_of_select (select_src b ho hp hd he)]
    exact actSrc_more hroom hb
  | body hp hd he hh hf hstop =>
    rw [feedByte_of_select (select_store b ho hp hd he hh (by simpa [State.fcsPos]) (by simpa [State.stopPos]))]
    rfl

theorem Received.plain_run {bytes : List Byte} (h : Received s m L d e t) (hfit : L + 2 ≤ s.cap.val)
    (hlen : m.length + bytes.length ≤ L + 1)
    (hplain : ∀ b ∈ bytes, ∀ p, m.length < p → p ≤ m.length + bytes.length → Plain L d e p b) :
    ∃ u, Received s (m ++ bytes) L d e u := by
  induction bytes generalizing m t with
  | nil => exact ⟨t, by rwa [List.append_nil]⟩
  | cons b bytes ih =>
    rw [List.length_cons] at hlen hplain
    have hb := h.plain (h.open_ hfit (by omega)) (hplain b List.mem_cons_self _ (by omega) (by omega))
    rw [List.append_cons]
    have hm : (m ++ [b]).length = m.length + 1 := List.length_append
    refine ih hb (by omega) fun b' hb' p hlo hhi => ?_
    exact hplain b' (List.mem_cons_of_mem _ hb') p (by omega) (by omega)

/-! ## Address fields -/

/-- An address field is up to two even bytes and an odd one (R75). -/
theorem addressField_split {a : List Byte} (h : addressField a = true) :
    ∃ init last, a = init ++ [last] ∧ init.length < 3 ∧ (∀ b ∈ init, odd b = false) ∧ odd last = true := by
  obtain rfl | ⟨init, last, rfl⟩ := a.eq_nil_or_concat'
  · simp [addressField] at h
  · obtain ⟨⟨hlen, hinit⟩, hlast⟩ : (init.length < 3 ∧ ∀ b ∈ init, odd b = false) ∧ odd last = true := by
      simpa [addressField, Config.addrMax, Nat.lt_succ_iff] using h
    exact ⟨init, last, rfl, hlen, hinit, hlast⟩

theorem addressField_length {a : List Byte} (h : addressField a = true) : 0 < a.length ∧ a.length ≤ 3 := by
  obtain ⟨init, last, rfl, hinit, -⟩ := addressField_split h
  rw [List.length_append, List.length_singleton]
  omega

/-- An address field up to its odd byte, in the two fields alike: its even bytes are stored, and the count of its bytes
fits the register that takes it. -/
theorem Received.address_init {a : List Byte} (h : Received s m L d e t) (ha : addressField a = true)
    (hfit : L + 2 ≤ s.cap.val) (hL : m.length + a.length ≤ L)
    (heven : ∀ b, odd b = false → ∀ p, m.length < p → p ≤ m.length + 2 → Plain L d e p b) :
    ∃ init last u, a = init ++ [last] ∧ odd last = true ∧ Received s (m ++ init) L d e u ∧ u.open_ ∧
      u.position = m.length + a.length ∧ ∃ n : Fin 4, n.val = a.length := by
  obtain ⟨init, last, rfl, hinit, hbytes, hodd⟩ := addressField_split ha
  rw [List.length_append, List.length_singleton] at hL ⊢
  obtain ⟨u, hu⟩ := h.plain_run (bytes := init) hfit (by omega) fun b hb p hlo hhi =>
    heven b (hbytes b hb) p hlo (by omega)
  have hp := hu.position
  rw [List.length_append] at hp
  exact ⟨init, last, u, rfl, hodd, hu, hu.open_ hfit (by rw [List.length_append]; omega), hp, ⟨⟨_, by omega⟩, rfl⟩⟩

theorem Received.destination {a : List Byte} (h : Received s m L 0 0 t) (ha : addressField a = true)
    (hm : m.length = 2) (hfit : L + 2 ≤ s.cap.val) (hL : 2 + a.length ≤ L) :
    ∃ u, Received s (m ++ a) L a.length 0 u := by
  obtain ⟨init, last, u, hsplit, hodd, hu, ho, hp, n, hn⟩ := h.address_init ha hfit (by omega) fun b hb p hlo hhi =>
    .dst (by omega) rfl (by omega) hb
  have hpos := (addressField_length ha).1
  have hsel := select_dst last ho (by omega) hu.holds.dst
  have hstored := hu.holds.store last
  have hnext := hu.next ((feedByte_of_select hsel).trans (actDst_last hodd n (by rw [State.store_position]; omega)))
    ⟨hstored.stored, hstored.length, hn, hstored.src⟩
  rw [List.append_assoc, ← hsplit] at hnext
  exact ⟨_, hnext⟩

theorem Received.source {a : List Byte} (h : Received s m L d 0 t) (ha : addressField a = true) (hd : 0 < d)
    (hm : m.length = 2 + d) (hfit : L + 2 ≤ s.cap.val) (hL : 2 + d + a.length ≤ L) :
    ∃ u, Received s (m ++ a) L d a.length u := by
  obtain ⟨init, last, u, hsplit, hodd, hu, ho, hp, n, hn⟩ := h.address_init ha hfit (by omega) fun b hb p hlo hhi =>
    .src (by omega) hd rfl (by omega) hb
  have hdst := hu.holds.dst
  have hsel := select_src last ho (by omega) (by omega) hu.holds.src
  have hstored := hu.holds.store last
  have hnext := hu.next ((feedByte_of_select hsel).trans
      (actSrc_last hodd n (by rw [State.store_position, State.store_dlen]; omega)))
    ⟨hstored.stored, hstored.length, hstored.dst, hn⟩
  rw [List.append_assoc, ← hsplit] at hnext
  exact ⟨_, hnext⟩

/-! ## Check points -/

/-- After `n` bytes follows a checksum over them, whose second byte is compared with the given cause (R132, R133). -/
inductive CheckPoint (L d e n : Nat) : DropCause → Prop where
  | hcs (hn : n = 3 + d + e) (hL : n + 2 ≤ L) : CheckPoint L d e n .hcs
  | fcs (hn : n + 2 = L) (hmin : 5 + d + e ≤ n) : CheckPoint L d e n .fcs

section
variable {cause : DropCause} (hcheck : CheckPoint L d e m.length cause) (hd : 0 < d) (he : 0 < e)
  (hfit : L + 2 ≤ s.cap.val)
include hcheck hd he hfit

/-- The first byte of the checksum is stored and nothing more. -/
theorem Received.checksum_lo (h : Received s m L d e t) (lo : Byte) :
    Received s (m ++ [lo]) L d e (feedByte lo t) := by
  cases hcheck with
  | hcs hn hL => exact h.plain (h.open_ hfit (by omega)) (.body (by omega) hd he (by omega) (by omega) (by omega))
  | fcs hn hmin => exact h.plain (h.open_ hfit (by omega)) (.body (by omega) hd he (by omega) (by omega) (by omega))

/-- The second byte of the checksum is stored or drops the attempt. -/
theorem Received.checksum_hi {lo : Byte} (h : Received s (m ++ [lo]) L d e t) (hi : Byte) :
    feedByte hi t = if crcOf m = littleEndian lo hi then (t.store hi).answer false .none
      else (t.store hi).drop cause := by
  have hp : t.position = m.length + 2 := by rw [h.position, List.length_append]; rfl
  have hbytes : t.Holds ([Config.flag] ++ m ++ [lo]) L d e := h.holds
  have hlo : t.byteAt (t.position - 1) = lo := by
    rw [hp]
    exact State.Holds.byteAt_last (w := Config.flag :: m) h.holds
  have hcrc := crcCheck_at_cursor (b := hi) hp
  have hspan : spanOf t.byteAt 1 m.length = m := hbytes.span
  rw [hlo, crcSpan, hspan] at hcrc
  have hL := h.holds.length
  have hdst := h.holds.dst
  have hsrc := h.holds.src
  simp only [← hcrc]
  cases hcheck with
  | hcs hn hL =>
    have ho := h.open_ hfit (by simp; omega)
    exact feedByte_of_select (select_hcs hi ho (by omega) (by omega) (by omega) (by unfold State.hcsPos; omega))
  | fcs hn hmin =>
    have ho := h.open_ hfit (by simp; omega)
    exact feedByte_of_select (select_fcs hi ho (by omega) (by omega) (by omega) (by unfold State.hcsPos; omega)
      (by unfold State.fcsPos; omega))

/-- The right checksum passes. -/
theorem Received.checksum (h : Received s m L d e t) : ∃ u, Received s (m ++ wordBytes (crcOf m)) L d e u := by
  have hlo := h.checksum_lo hcheck hd he hfit ((crcOf m).setWidth 8)
  have hhi := hlo.checksum_hi hcheck hd he hfit ((crcOf m >>> 8).setWidth 8)
  rw [littleEndian_split, if_pos rfl] at hhi
  have hnext := hlo.next hhi (hlo.holds.store _)
  rw [List.append_assoc] at hnext
  exact ⟨_, hnext⟩

/-- Any other checksum drops the attempt at its second byte. -/
theorem Received.wrong_checksum {c : Word16} (h : Received s m L d e t) (hc : c ≠ crcOf m) :
    ∃ u : State, feedAll (Config.flag :: (m ++ wordBytes c)) s =
        some (.feed false s.startCause :: List.replicate (m.length + 1) (.feed false .none) ++ [.feed false cause], u) ∧
      u = u.emptied u.buffer (.feed false cause) := by
  have hlo := h.checksum_lo hcheck hd he hfit (c.setWidth 8)
  have hhi := hlo.checksum_hi hcheck hd he hfit ((c >>> 8).setWidth 8)
  rw [littleEndian_split, if_neg hc.symm] at hhi
  have hfed := hlo.feedAll_append ((c >>> 8).setWidth 8)
  rw [hhi, List.append_assoc, List.length_append] at hfed
  exact ⟨_, hfed, rfl⟩

end

/-- The flag at the stop position completes the frame. -/
theorem Received.stop_flag (h : Received s m L d e t) (hd : 0 < d) (he : 0 < e) (hfit : L + 2 ≤ s.cap.val)
    (hm : m.length = L) (hmin : 5 + d + e ≤ L) : ∃ u, Delivered s m L d e u := by
  have hp := h.position
  have hL := h.holds.length
  have hdst := h.holds.dst
  have hsrc := h.holds.src
  have hsel := select_stop Config.flag (h.open_ hfit hm.le) (by omega) (by omega) (by omega)
    (by unfold State.hcsPos; omega) (by unfold State.stopPos; omega)
  have hfeed := (feedByte_of_select hsel).trans (actStop_flag _ rfl)
  have hstored := h.holds.store Config.flag
  have hfed := h.feedAll_append Config.flag
  rw [hfeed] at hfed
  exact ⟨_, {
    fed := hfed
    cap := h.cap
    holds := ⟨hstored.stored, hstored.length, hstored.dst, hstored.src⟩
    complete := rfl }⟩

end

end Sys2Proof.Machine
end

section
/-! SUPPORT. Whole frames on the wire (R70 to R79): fed to a clean reader with room for them they are delivered, or
dropped where a checksum is wrong (R140). -/

namespace Sys2Proof.Machine

/-! ## The fields of a frame -/

@[simp] theorem lengthBytes_length (L : Nat) : (lengthBytes L).length = 2 := rfl

@[simp] theorem wordBytes_length (w : Word16) : (wordBytes w).length = 2 := rfl

theorem Frame.addressed_iff (f : Frame) :
    f.addressed = true ↔ addressField f.destination = true ∧ addressField f.source = true := Bool.and_eq_true_iff

theorem Frame.header_length (f : Frame) (L : Nat) :
    (f.header L).length = 3 + f.destination.length + f.source.length := by
  simp only [Frame.header, List.length_append, lengthBytes_length, List.length_singleton]
  omega

/-- The format byte carries the type in its high nibble and the length's bits 11..8 in its low one (R72, R74). -/
theorem formatByte_nibbles : ∀ k < 16, (Config.fmtValid ||| BitVec.ofNat 8 k) &&& Config.fmtMask = Config.fmtValid ∧
    (Config.fmtValid ||| BitVec.ofNat 8 k).toNat % 16 = k := by decide

/-- The two bytes of R72 to R74 read back as the length. -/
theorem assembleLength_lengthBytes {L : Nat} (h : L ≤ 4095) :
    (assembleLength (Config.fmtValid ||| BitVec.ofNat 8 (L / 256)) (BitVec.ofNat 8 (L % 256))).toNat = L := by
  rw [assembleLength_toNat, (formatByte_nibbles (L / 256) (by omega)).2, BitVec.toNat_ofNat]
  omega

theorem Frame.address_lengths (f : Frame) (h : f.addressed = true) :
    (0 < f.destination.length ∧ f.destination.length ≤ 3) ∧ 0 < f.source.length ∧ f.source.length ≤ 3 :=
  (f.addressed_iff.1 h).imp addressField_length addressField_length

theorem Frame.address_lengths_pos (f : Frame) (h : f.addressed = true) :
    0 < f.destination.length ∧ 0 < f.source.length :=
  (f.address_lengths h).imp And.left And.left

theorem Frame.bareLength_le (f : Frame) (h : f.addressed = true) : f.bareLength ≤ 4095 := by
  obtain ⟨⟨-, hd⟩, -, he⟩ := f.address_lengths h
  unfold Frame.bareLength
  omega

/-- The span of the full checksum with another payload in it. -/
def Frame.bodyWith (f : Frame) (payload : List Byte) : List Byte :=
  f.header f.length ++ wordBytes (crcOf (f.header f.length)) ++ payload

theorem Frame.body_eq (f : Frame) : f.body = f.bodyWith f.payload := rfl

theorem Frame.bodyWith_length (f : Frame) {payload : List Byte} (h : payload.length = f.payload.length) :
    (f.bodyWith payload).length + 2 = f.length := by
  simp only [Frame.bodyWith, List.length_append, f.header_length, wordBytes_length, h, Frame.length]
  omega

/-- The bytes between the flags of a frame sent in one of R140's two regular forms. -/
def Frame.content (f : Frame) : Bool → List Byte
  | true => f.header f.bareLength ++ wordBytes (crcOf (f.header f.bareLength))
  | false => f.body ++ wordBytes (crcOf f.body)

/-- Either form is long enough for its header checksum. -/
theorem Frame.le_lengthAs (f : Frame) (bare : Bool) :
    5 + f.destination.length + f.source.length ≤ f.lengthAs bare := by
  cases bare with
  | true => exact le_rfl
  | false =>
    show _ ≤ 7 + f.destination.length + f.source.length + f.payload.length
    omega

theorem Frame.wireAs_eq (f : Frame) (bare : Bool) :
    f.wireAs bare = Config.flag :: (f.content bare ++ [Config.flag]) := by
  cases bare <;> rfl

theorem Frame.content_length (f : Frame) (bare : Bool) : (f.content bare).length = f.lengthAs bare := by
  cases bare with
  | true =>
    rw [Frame.content, List.length_append, f.header_length, wordBytes_length]
    show _ = 5 + f.destination.length + f.source.length
    omega
  | false =>
    rw [Frame.content, List.length_append]
    exact f.bodyWith_length rfl

/-! ## The check points of a frame -/

theorem Frame.headerCheckPoint (f : Frame) {L : Nat} (h : 5 + f.destination.length + f.source.length ≤ L) :
    CheckPoint L f.destination.length f.source.length (f.header L).length .hcs :=
  .hcs (f.header_length L) (by rw [f.header_length]; omega)

theorem Frame.bodyCheckPoint (f : Frame) {payload : List Byte} (h : payload.length = f.payload.length) :
    CheckPoint f.length f.destination.length f.source.length (f.bodyWith payload).length .fcs := by
  have hlen := f.bodyWith_length h
  refine .fcs hlen ?_
  unfold Frame.length at hlen
  omega

/-! ## The bytes of a frame one field after another -/

section
variable {s : State} {f : Frame} {L : Nat} (hinv : s.Inv) (hclean : s.clean = true) (ha : f.addressed = true)
  (hmin : 5 + f.destination.length + f.source.length ≤ L) (hmax : L ≤ 4095) (hfit : L + 2 ≤ s.cap.val)

include hinv hclean hmax in
theorem received_lengthBytes : ∃ t, Received s (lengthBytes L) L 0 0 t := by
  have hfmt := (Received.start_flag hinv hclean).format_byte (formatByte_nibbles (L / 256) (by omega)).1
  have hlen := hfmt.length_byte (b₂ := BitVec.ofNat 8 (L % 256))
  rw [assembleLength_lengthBytes hmax] at hlen
  exact ⟨_, hlen⟩

include hinv hclean ha hmin hmax hfit

theorem received_header : ∃ t, Received s (f.header L) L f.destination.length f.source.length t := by
  obtain ⟨hdst, hsrc⟩ := f.addressed_iff.1 ha
  obtain ⟨hd, he⟩ := f.address_lengths_pos ha
  obtain ⟨t, ht⟩ := received_lengthBytes hinv hclean hmax
  obtain ⟨t, ht⟩ := ht.destination hdst rfl hfit (by omega)
  obtain ⟨t, ht⟩ := ht.source hsrc hd (by rw [List.length_append, lengthBytes_length]) hfit (by omega)
  have hlen : (lengthBytes L ++ f.destination ++ f.source).length = 2 + f.destination.length + f.source.length := by
    rw [List.length_append, List.length_append, lengthBytes_length]
  have hctrl : [f.control].length = 1 := rfl
  refine ht.plain_run hfit (by omega) fun b _ p hlo hhi => ?_
  exact .body (by omega) hd he (by omega) (by omega) (by omega)

theorem received_checked_header :
    ∃ t, Received s (f.header L ++ wordBytes (crcOf (f.header L))) L f.destination.length f.source.length t := by
  obtain ⟨hd, he⟩ := f.address_lengths_pos ha
  obtain ⟨t, ht⟩ := received_header hinv hclean ha hmin hmax hfit
  exact ht.checksum (f.headerCheckPoint hmin) hd he hfit

end

section
variable {s : State} {f : Frame} (hinv : s.Inv) (hclean : s.clean = true) (ha : f.addressed = true)
include hinv hclean ha

/-- Up to the full checksum a regular frame is received whatever its payload is. -/
theorem received_payload {payload : List Byte} (hlen : payload.length = f.payload.length) (hmax : f.length ≤ 4095)
    (hfit : f.length + 2 ≤ s.cap.val) :
    ∃ t, Received s (f.bodyWith payload) f.length f.destination.length f.source.length t := by
  obtain ⟨hd, he⟩ := f.address_lengths_pos ha
  have hL : f.length = 7 + f.destination.length + f.source.length + f.payload.length := rfl
  obtain ⟨t, ht⟩ := received_checked_header hinv hclean ha (L := f.length) (by omega) hmax hfit
  have hspan : (f.header f.length ++ wordBytes (crcOf (f.header f.length))).length =
      5 + f.destination.length + f.source.length := by
    rw [List.length_append, f.header_length, wordBytes_length]
    omega
  refine ht.plain_run hfit (by omega) fun b _ p hlo hhi => ?_
  exact .body (by omega) hd he (by omega) (by omega) (by omega)

/-- A frame of either form is delivered. -/
theorem delivered_content (bare : Bool) (hmax : f.lengthAs bare ≤ 4095) (hfit : f.lengthAs bare + 2 ≤ s.cap.val) :
    ∃ t, Delivered s (f.content bare) (f.lengthAs bare) f.destination.length f.source.length t := by
  obtain ⟨hd, he⟩ := f.address_lengths_pos ha
  suffices hreceived :
      ∃ t, Received s (f.content bare) (f.lengthAs bare) f.destination.length f.source.length t by
    obtain ⟨t, ht⟩ := hreceived
    exact ht.stop_flag hd he hfit (f.content_length bare) (f.le_lengthAs bare)
  cases bare with
  | true => exact received_checked_header hinv hclean ha le_rfl hmax hfit
  | false =>
    obtain ⟨t, ht⟩ := received_payload hinv hclean ha rfl hmax hfit
    exact ht.checksum (f.bodyCheckPoint rfl) hd he hfit

end

/-! ## What a delivered frame reads as -/

section
variable {s t : State} {f : Frame} {L : Nat} {before after a : List Byte} {d e : Nat}

theorem State.Holds.destinationAddress (h : t.Holds (before ++ a ++ after) L a.length e) (hstart : before.length = 3)
    (ha : 0 < a.length) : t.destinationAddress = some a := by
  have hd : t.dlen ≠ 0 := fun h0 => by simp [← h.dst, h0] at ha
  have hspan := h.span
  rw [hstart] at hspan
  rw [State.destinationAddress, if_neg hd, h.dst]
  exact congrArg some hspan

theorem State.Holds.sourceAddress (h : t.Holds (before ++ a ++ after) L d a.length) (hstart : before.length = 3 + d)
    (ha : 0 < a.length) : t.sourceAddress = some a := by
  have hs : t.slen ≠ 0 := fun h0 => by simp [← h.src, h0] at ha
  have hspan := h.span
  rw [hstart] at hspan
  rw [State.sourceAddress, if_neg hs, h.dst, h.src]
  exact congrArg some hspan

/-- The payload begins after the header checksum, and takes what the length leaves for it (R28, R163). -/
theorem State.Holds.payloadSlice (h : t.Holds (before ++ a ++ after) L d e) (hstart : before.length = 6 + d + e)
    (ha : a.length = L - (5 + d + e) - 2) : payloadSlice t = ⟨6 + d + e, a.length, a⟩ := by
  have hoff : t.payOff = 6 + d + e := by
    unfold State.payOff State.hdrTotal
    rw [h.dst, h.src]
    omega
  have hlen : t.payLen = a.length := by
    rw [State.payLen, State.hdrTotal, h.length, h.dst, h.src, ha]
  have hspan := h.span
  rw [hstart] at hspan
  rw [Machine.payloadSlice, hoff, hlen, hspan]

/-- GETRAW answers the payload of a complete frame, which lies inside the buffer (R162). -/
theorem execGetraw_complete (hc : t.complete = true) (hfit : t.dataLength.toNat + 2 ≤ t.cap.val) :
    execGetraw t = .next { t with output := .raw (some (payloadSlice t)) } := by
  have hin : t.spanInBuffer t.payOff t.payLen = true := by
    rw [State.spanInBuffer, Bool.or_eq_true, beq_iff_eq, decide_eq_true_iff, State.payLen, State.payOff]
    omega
  rw [execGetraw, if_neg (by simp [hc]), if_pos hin]

/-- After a delivery the address status outputs and GETRAW give the sender's fields (R162, R165). -/
theorem Delivered.fields {c : Word16} {payload : List Byte}
    (h : Delivered s (f.header L ++ wordBytes c ++ payload ++ after) L f.destination.length f.source.length t)
    (ha : f.addressed = true) (hfit : L + 2 ≤ s.cap.val)
    (hlen : payload.length = L - (5 + f.destination.length + f.source.length) - 2) :
    t.destinationAddress = some f.destination ∧ t.sourceAddress = some f.source ∧
      ∃ slice : Slice, exec .getraw t = .next { t with output := .raw (some slice) } ∧
        slice = ⟨6 + f.destination.length + f.source.length, payload.length, payload⟩ := by
  obtain ⟨hd, he⟩ := f.address_lengths_pos ha
  have hdst : t.Holds ((Config.flag :: lengthBytes L) ++ f.destination ++
      (f.source ++ f.control :: (wordBytes c ++ payload ++ after ++ [Config.flag]))) L f.destination.length
      f.source.length := by
    simpa [Frame.header] using h.holds
  have hsrc : t.Holds ((Config.flag :: lengthBytes L ++ f.destination) ++ f.source ++
      (f.control :: (wordBytes c ++ payload ++ after ++ [Config.flag]))) L f.destination.length
      f.source.length := by
    simpa [Frame.header] using h.holds
  have hpay : t.Holds ((Config.flag :: (f.header L ++ wordBytes c)) ++ payload ++ (after ++ [Config.flag])) L
      f.destination.length f.source.length := by
    simpa using h.holds
  refine ⟨hdst.destinationAddress rfl hd, hsrc.sourceAddress ?_ he, payloadSlice t,
    execGetraw_complete h.complete ?_, hpay.payloadSlice ?_ hlen⟩
  · rw [List.length_append]
    rfl
  · rw [h.holds.length, h.cap]
    exact hfit
  · rw [List.length_cons, List.length_append, f.header_length, wordBytes_length]
    omega

end

/-- Settles O48: what is delivered holds the bytes of the wire, and they are read at the offsets of R28. -/
theorem regularFrameCompletes : Obligations.RegularFrameCompletes := by
  intro f s hinv hclean ha hmax hfit
  obtain ⟨t, ht⟩ := delivered_content hinv hclean ha false hmax hfit
  have hlen : (f.content false).length = f.length := f.content_length false
  have hfed := ht.fed
  have hp := ht.holds.position
  rw [hlen] at hfed
  rw [List.length_cons, List.length_append, hlen] at hp
  obtain ⟨hdst, hsrc, hraw⟩ := Delivered.fields ht ha hfit (by unfold Frame.length; omega)
  exact ⟨s.startCause, t, hfed, hp, ht.holds.length, ht.complete, hdst, hsrc, hraw⟩

/-- Settles O49: after the header checksum the stop flag follows at once, and the length leaves no payload. -/
theorem bareFrameCompletes : Obligations.BareFrameCompletes := by
  intro f s hinv hclean ha hfit
  obtain ⟨t, ht⟩ := delivered_content hinv hclean ha true (f.bareLength_le ha) hfit
  have hfed := ht.fed
  rw [f.content_length true] at hfed
  rw [← List.append_nil (f.content true), ← List.append_nil (f.content true)] at ht
  exact ⟨s.startCause, t, hfed, ht.fields (payload := []) ha hfit (by unfold Frame.bareLength; simp)⟩

end Sys2Proof.Machine
end

section
/-! SUPPORT. Frames that are damaged on the way (R140 (g)), and frames one after another (R140 (c)). -/

namespace Sys2Proof.Machine

/-! ## Damaged frames -/

/-- A changed payload byte under the old checksum, or another checksum: either way the checksum that arrives is not that
of the span that arrives. -/
theorem Frame.checksum_ne_of_damage {f : Frame} {before after payload : List Byte} {b b' : Byte} {checksum : Word16}
    (h : f.payload = before ++ b :: after ∧ payload = before ++ b' :: after ∧ b ≠ b' ∧ checksum = crcOf f.body ∨
      payload = f.payload ∧ checksum ≠ crcOf f.body) :
    payload.length = f.payload.length ∧ checksum ≠ crcOf (f.bodyWith payload) := by
  obtain ⟨hold, rfl, hne, rfl⟩ | ⟨rfl, hne⟩ := h
  · refine ⟨by simp [hold], ?_⟩
    rw [Frame.body_eq, Frame.bodyWith, Frame.bodyWith, hold, ← List.append_assoc, ← List.append_assoc]
    exact oneChangedByteChangesTheChecksum _ after b b' hne
  · exact ⟨rfl, hne⟩

/-- Settles O50: the full checksum is the one check point a damaged payload or checksum meets, and after the drop the
reader is Idle. -/
theorem damagedFrameIsDropped : Obligations.DamagedFrameIsDropped := by
  intro f before after b b' payload checksum s hinv hclean ha hmax hfit hdamage
  obtain ⟨hlen, hne⟩ := Frame.checksum_ne_of_damage hdamage
  obtain ⟨hd, he⟩ := f.address_lengths_pos ha
  obtain ⟨r, hr⟩ := received_payload hinv hclean ha hlen hmax hfit
  obtain ⟨t, hfed, ht⟩ := hr.wrong_checksum (f.bodyCheckPoint hlen) hd he hfit hne
  have hbody := f.bodyWith_length hlen
  have htake : (f.damagedWire payload checksum).take (f.length + 1) =
      Config.flag :: (f.bodyWith payload ++ wordBytes checksum) := by
    have hspan : (f.bodyWith payload ++ wordBytes checksum).length = f.length := by
      rw [List.length_append]
      exact hbody
    rw [← hspan]
    exact congrArg (Config.flag :: ·) List.take_left
  rw [← htake, show (f.bodyWith payload).length + 1 = f.length - 1 by omega] at hfed
  have hidle : t.position = 0 := by rw [ht]; rfl
  exact ⟨s.startCause, t, _, hfed, ht, (flagStartsAnAttempt t _ hidle rfl).1, rfl, rfl⟩

/-- Settles O51: the header checksum is the first check point. -/
theorem damagedHeaderIsDropped : Obligations.DamagedHeaderIsDropped := by
  intro f L checksum s hinv hclean ha hmin hmax hfit hne
  obtain ⟨hd, he⟩ := f.address_lengths_pos ha
  obtain ⟨r, hr⟩ := received_header hinv hclean ha hmin hmax hfit
  obtain ⟨t, hfed, ht⟩ := hr.wrong_checksum (f.headerCheckPoint hmin) hd he hfit hne
  rw [f.header_length, show 3 + f.destination.length + f.source.length + 1 =
    4 + f.destination.length + f.source.length by omega] at hfed
  exact ⟨s.startCause, t, hfed, ht⟩

/-! ## Frames one after another -/

/-- An output of a frame that is not dropped. -/
def Output.Orderly (o : Output) : Prop := o = .feed false .none ∨ o = .feed true .none

/-- What the bytes after the start flag of a delivered frame answer. -/
def tailOutputs (n : Nat) : List Output := List.replicate n (.feed false .none) ++ [.feed true .none]

theorem tailOutputs_count (n : Nat) : (tailOutputs n).count (.feed true .none) = 1 := by
  simp [tailOutputs, List.count_replicate]

theorem tailOutputs_orderly (n : Nat) : ∀ o ∈ tailOutputs n, o.Orderly := by
  intro o ho
  obtain ho | ho := List.mem_append.1 ho
  · exact .inl (List.eq_of_mem_replicate ho)
  · exact .inr (List.mem_singleton.1 ho)

/-- What frames fed back to back answer: a completion each, the last output among them, and no drop after the first start
flag; a reader that holds a complete frame reports none there either. -/
structure BackToBack (s : State) (bytes : List Byte) (n : Nat) (outs : List Output) (t : State) : Prop where
  fed : feedAll bytes s = some (outs, t)
  count : outs.count (.feed true .none) = n
  orderly : ∀ o ∈ outs.drop 1, o.Orderly
  released : s.complete = true → ∀ o ∈ outs, o.Orderly
  last : outs = [] ∧ t = s ∨ outs.getLast? = some (.feed true .none) ∧ t.complete = true

theorem BackToBack.nil (s : State) : BackToBack s [] 0 [] s :=
  ⟨rfl, rfl, List.forall_mem_nil _, fun _ => List.forall_mem_nil _, .inl ⟨rfl, rfl⟩⟩

/-- A delivered frame, then the others: the first of them finds the frame complete. -/
theorem BackToBack.cons {s t u : State} {m bytes : List Byte} {L d e n : Nat} {outs : List Output}
    (hframe : Delivered s m L d e t) (hrest : BackToBack t bytes n outs u) :
    BackToBack s (Config.flag :: (m ++ [Config.flag]) ++ bytes) (n + 1)
      (.feed false s.startCause :: (tailOutputs m.length ++ outs)) u := by
  have htail : ∀ o ∈ tailOutputs m.length ++ outs, o.Orderly :=
    List.forall_mem_append.2 ⟨tailOutputs_orderly _, hrest.released hframe.complete⟩
  refine ⟨feedAll_append hframe.fed hrest.fed, ?_, htail, fun hc => ?_, .inr ?_⟩
  · rw [List.count_cons_of_ne (by simp), List.count_append, tailOutputs_count, hrest.count, Nat.add_comm]
  · rw [State.startCause_of_complete hc]
    exact List.forall_mem_cons.2 ⟨.inl rfl, htail⟩
  · obtain ⟨rfl, rfl⟩ | ⟨hlast, hc⟩ := hrest.last
    · exact ⟨by simp [tailOutputs, List.getLast?_cons], hframe.complete⟩
    · exact ⟨by simp [List.getLast?_cons, hlast], hc⟩

/-- A complete frame leaves its reader clean. -/
theorem State.clean_of_complete {s : State} (h : s.complete = true) : s.clean = true := by
  simp [State.clean, h]

/-- By induction on the frames: each is delivered to a reader that is clean, at first by assumption and then because the
frame before is complete. -/
theorem backToBack_wires (fs : List (Frame × Bool)) {s : State} (hinv : s.Inv) (hclean : s.clean = true)
    (hfs : ∀ f ∈ fs, f.1.addressed = true ∧ f.1.lengthAs f.2 ≤ 4095 ∧ f.1.lengthAs f.2 + 2 ≤ s.cap.val) :
    ∃ outs t, BackToBack s (fs.flatMap fun f => f.1.wireAs f.2) fs.length outs t := by
  induction fs generalizing s with
  | nil => exact ⟨_, _, .nil s⟩
  | cons f fs ih =>
    obtain ⟨⟨ha, hmax, hfit⟩, hrest⟩ := List.forall_mem_cons.1 hfs
    obtain ⟨t, ht⟩ := delivered_content hinv hclean ha f.2 hmax hfit
    obtain ⟨outs, u, hu⟩ := ih (hinv.feedAll ht.fed) (State.clean_of_complete ht.complete) (ht.cap ▸ hrest)
    rw [List.flatMap_cons, f.1.wireAs_eq]
    exact ⟨_, u, .cons ht hu⟩

/-- Settles O60. -/
theorem framesOfBothFormsAllComplete : Obligations.FramesOfBothFormsAllComplete := by
  intro fs s hinv hclean hfs
  obtain ⟨outs, t, h⟩ := backToBack_wires fs hinv hclean hfs
  refine ⟨outs, t, h.fed, h.count, h.orderly, fun hne => h.last.resolve_left ?_⟩
  rintro ⟨rfl, -⟩
  exact hne (List.length_eq_zero_iff.1 h.count.symm)

/-- Settles O52: the frames of O60 that are all sent in the form with two checksums. -/
theorem backToBackFramesAllComplete : Obligations.BackToBackFramesAllComplete := by
  intro fs s hinv hclean hfs
  obtain ⟨outs, t, h⟩ := backToBack_wires (fs.map (·, false)) hinv hclean (by simpa [Frame.lengthAs] using hfs)
  have hfed := h.fed
  have hcount := h.count
  rw [List.flatMap_map] at hfed
  rw [List.length_map] at hcount
  exact ⟨outs, t, hfed, hcount, h.orderly⟩

end Sys2Proof.Machine
end

section
/-! SUPPORT. CLEAR and GETRAW (R160 to R164): the three outcomes of GETRAW, and the window in which it answers a
payload. -/

namespace Sys2Proof.Machine

/-! ## CLEAR -/

theorem exec_clear (s : State) : exec .clear s = .next (s.emptied s.buffer .none) := rfl

/-! ## The outcomes of GETRAW -/

/-- R55: an empty span leaves no buffer. -/
theorem State.spanInBuffer_iff (s : State) (start n : Nat) :
    s.spanInBuffer start n = true ↔ n = 0 ∨ start + n ≤ s.cap.val := by
  simp [State.spanInBuffer]

theorem exec_getraw_absent {s : State} (hc : s.complete = false) :
    exec .getraw s = .next { s with output := .raw none } := if_pos hc

theorem exec_getraw_inside {s : State} (hc : s.complete = true)
    (hin : s.payLen = 0 ∨ s.payOff + s.payLen ≤ s.cap.val) :
    exec .getraw s = .next { s with output := .raw (some (payloadSlice s)) } :=
  (if_neg (by simp [hc])).trans (if_pos ((s.spanInBuffer_iff _ _).2 hin))

theorem exec_getraw_outside {s : State} (hc : s.complete = true) (hlen : s.payLen ≠ 0)
    (hout : s.cap.val < s.payOff + s.payLen) : exec .getraw s = .fault (.outsideBuffer s.payOff s.payLen) :=
  (if_neg (by simp [hc])).trans
    (if_neg fun hin => ((s.spanInBuffer_iff _ _).1 hin).elim hlen (Nat.not_le.2 hout))

theorem State.payOff_eq (s : State) : s.payOff = 6 + s.dlen.val + s.slen.val := by
  unfold State.payOff State.hdrTotal
  omega

/-- The payload's length without subtraction: what the length field leaves after the header and the checksums, and 0
where it leaves nothing (R163). -/
theorem State.payLen_eq {s : State} {len : Nat}
    (hleft : 7 + s.dlen.val + s.slen.val ≤ s.dataLength.toNat →
      len + (7 + s.dlen.val + s.slen.val) = s.dataLength.toNat)
    (hnone : s.dataLength.toNat < 7 + s.dlen.val + s.slen.val → len = 0) : s.payLen = len := by
  unfold State.payLen State.hdrTotal
  obtain h | h := Nat.lt_or_ge s.dataLength.toNat (7 + s.dlen.val + s.slen.val)
  · have := hnone h
    omega
  · have := hleft h
    omega

/-- Settles O53: CLEAR answers the emptied reader, emptying one again leaves it, and it holds no complete frame. -/
theorem clearReinitialises : Obligations.ClearReinitialises :=
  fun s => ⟨exec_clear s, exec_clear _, exec_getraw_absent rfl⟩

/-- Settles O54: the given start and length are those of the payload, and each case is an outcome of GETRAW. -/
theorem getrawAnswersThePayload : Obligations.GetrawAnswersThePayload := by
  intro s
  refine ⟨exec_getraw_absent, fun start len hc hstart hleft hnone => ?_⟩
  obtain rfl : s.payOff = start := s.payOff_eq.trans hstart.symm
  obtain rfl : s.payLen = len := State.payLen_eq hleft hnone
  exact ⟨exec_getraw_inside hc, exec_getraw_outside hc⟩

/-! ## The window of the payload -/

/-- A complete frame ends at the cursor (clause (l) of R39), so its payload lies inside the buffer. -/
theorem exec_getraw_complete {s : State} (h : s.Inv) (hc : s.complete = true) :
    exec .getraw s = .next { s with output := .raw (some (payloadSlice s)) } := by
  obtain ⟨-, hend, -⟩ := h.completed hc
  exact execGetraw_complete hc (hend.ge.trans h.bound)

/-- A frame that is complete has no attempt in progress, so the next FEED begins with the pre-reset. -/
theorem State.Inv.mustRestart_of_complete {s : State} (h : s.Inv) (hc : s.complete = true) : s.mustRestart := by
  by_contra hopen
  exact absurd hc (by simp [h.not_complete (State.open_of_not_mustRestart hopen)])

/-- What the pre-reset leaves: no frame, and at most the flag that was fed. -/
theorem feedByte_of_mustRestart {s : State} (h : s.mustRestart) (b : Byte) :
    (feedByte b s).complete = false ∧ (feedByte b s).position ≤ 1 := by
  rw [feedByte_of_select ((select_eq_restart_iff s b).2 h)]
  show (actRestart b s).complete = false ∧ (actRestart b s).position ≤ 1
  by_cases hb : b = Config.flag
  · simp [actRestart_flag s hb]
  · simp [actRestart_other s hb]

/-- Settles O55: after FEED the output `done` is the bit that GETRAW asks for (O42); GETRAW leaves the bit, and the next
FEED resets it. -/
theorem payloadWindow : Obligations.PayloadWindow := by
  intro s t b h ht
  have hinv := h.exec ht
  refine ⟨fun cause hout => ?_, fun cause hout => ?_, fun hc => ?_⟩
  · have hdone := completeBitIsTheLastDone s t b true cause h ht hout
    exact ⟨payloadSlice t, exec_getraw_complete hinv hdone, exec_getraw_complete (hinv.output _) hdone⟩
  · exact exec_getraw_absent (completeBitIsTheLastDone s t b false cause h ht hout)
  · cases ht
    exact feedByte_of_mustRestart (h.mustRestart_of_complete hc) b

end Sys2Proof.Machine
end

section
/-! SUPPORT. ISVALID (R175 to R180): what SCAN finds, the tests one by one, and their answer on a frame the reader has
completed. -/

namespace Sys2Proof.Machine

/-! ## Byte sequences as sources of bytes -/

theorem listAt_nil (i : Nat) : listAt [] i = 0x00#8 := rfl

@[simp] theorem listAt_cons_zero (b : Byte) (t : List Byte) : listAt (b :: t) 0 = b := rfl

@[simp] theorem listAt_cons_succ (b : Byte) (t : List Byte) (i : Nat) : listAt (b :: t) (i + 1) = listAt t i := rfl

theorem listAt_drop (buf : List Byte) (k i : Nat) : listAt (buf.drop k) i = listAt buf (k + i) := by
  simp [listAt]

theorem listAt_spanOf (f : Nat → Byte) {n i : Nat} (h : i < n) : listAt (spanOf f 0 n) i = f i := by
  simp [listAt, spanOf, h]

/-- The bytes a sequence does not have read as an even one. -/
theorem lt_length_of_odd {buf : List Byte} {i : Nat} (h : odd (listAt buf i) = true) : i < buf.length := by
  by_contra hi
  rw [listAt, List.getD_eq_default _ _ (Nat.le_of_not_lt hi)] at h
  exact absurd h (by decide)

/-! ## SCAN (R177) -/

/-- An address field is a single odd byte, or an even byte with an address field after it. -/
theorem addressAt_cons_succ_iff (b : Byte) (t : List Byte) (n : Nat) :
    AddressAt (listAt (b :: t)) 0 (n + 1) ↔
      odd b = true ∧ n = 0 ∨ odd b = false ∧ AddressAt (listAt t) 0 n := by
  cases n with
  | zero => simp [AddressAt]
  | succ m => simp [AddressAt, Nat.forall_lt_succ_left, and_left_comm, -Order.lt_add_one_iff]

/-- The field at an offset is the field at the head of the bytes from there on. -/
theorem addressAt_drop_iff (buf : List Byte) (k n : Nat) :
    AddressAt (listAt (buf.drop k)) 0 n ↔ AddressAt (listAt buf) k n := by
  unfold AddressAt
  simp only [listAt_drop, Nat.zero_add]
  refine and_congr_right fun hn => ?_
  rw [Nat.add_sub_assoc hn]

theorem addressLength_eq_some_iff (bytes : List Byte) (n : Nat) :
    addressLength bytes = some n ↔ AddressAt (listAt bytes) 0 n := by
  induction bytes generalizing n with
  | nil => simp [addressLength, AddressAt, listAt_nil, odd]
  | cons b t ih =>
    cases n with
    | zero =>
      cases hb : odd b <;> simp [addressLength, hb, AddressAt]
    | succ m =>
      rw [addressAt_cons_succ_iff, ← ih]
      cases hb : odd b <;> simp [addressLength, hb, eq_comm]

theorem addressLength_drop_eq_some_iff (buf : List Byte) (k n : Nat) :
    addressLength (buf.drop k) = some n ↔ AddressAt (listAt buf) k n :=
  (addressLength_eq_some_iff _ n).trans (addressAt_drop_iff buf k n)

theorem scan_eq_some_iff (buf : List Byte) (hl : Nat) :
    scan buf = some hl ↔
      ∃ d s, AddressAt (listAt buf) 3 d ∧ AddressAt (listAt buf) (3 + d) s ∧ hl = 3 + d + s := by
  simp only [← addressLength_drop_eq_some_iff]
  unfold scan
  cases hd : addressLength (buf.drop 3) with
  | none => simp
  | some d =>
    cases hs : addressLength (buf.drop (3 + d)) with
    | none => simp [hs]
    | some s => simp [hs, eq_comm]

/-- An address field of a byte sequence ends inside it: its last byte is odd. -/
theorem AddressAt.end_le_length {buf : List Byte} {start n : Nat} (h : AddressAt (listAt buf) start n) :
    start + n ≤ buf.length := by
  obtain ⟨hn, hlast, -⟩ := h
  have := lt_length_of_odd hlast
  omega

/-- Settles O57: SCAN walks the two fields one after the other, and the second ends inside the bytes. -/
theorem scanFindsTheControlByte : Obligations.ScanFindsTheControlByte := by
  intro buf hl
  refine (scan_eq_some_iff buf hl).trans (exists₂_congr fun d s => ?_)
  exact ⟨fun ⟨hd, hs, hhl⟩ => ⟨hd, hs, hs.end_le_length, hhl⟩, fun ⟨hd, hs, _, hhl⟩ => ⟨hd, hs, hhl⟩⟩

/-! ## The tests of R176 -/

theorem exec_isvalid (buf : List Byte) (s : State) :
    exec (.isvalid buf) s = .next { s with output := .verdict (decide (judge buf = .ok)) (judge buf) } := rfl

theorem judge_cons_of_ne_flag {b : Byte} (t : List Byte) (hb : b ≠ Config.flag) :
    judge (b :: t) = .noStartFlag := by
  simp [judge, hb]

theorem judge_of_flag_short {buf : List Byte} (hflag : listAt buf 0 = Config.flag) (hn : buf.length < 3) :
    judge buf = .tooShort := by
  unfold judge
  rw [if_neg (not_not.2 hflag), if_pos hn, ite_self]

theorem judge_of_flag {buf : List Byte} (hflag : listAt buf 0 = Config.flag) (hn : 3 ≤ buf.length) :
    judge buf = judgeLength buf (assembleLength (listAt buf 1) (listAt buf 2)).toNat := by
  unfold judge
  rw [if_neg (by omega), if_neg (not_not.2 hflag), if_neg (by omega)]

theorem judge_flag_cons (b₁ b₂ : Byte) (t : List Byte) :
    judge (Config.flag :: b₁ :: b₂ :: t) =
      judgeLength (Config.flag :: b₁ :: b₂ :: t) (256 * (b₁.toNat % 16) + b₂.toNat) := by
  rw [judge_of_flag rfl (by simp), ← assembleLength_toNat]
  rfl

section
variable {buf : List Byte} {L hl : Nat}

theorem judgeLength_short (h : buf.length < L + 2 ∨ L < 2) : judgeLength buf L = .tooShort := by
  unfold judgeLength
  obtain h | h := h
  · rw [if_pos h]
  · rw [if_pos h, ite_self]

theorem judgeLength_unterminated (hn : L + 2 ≤ buf.length) (hL : 2 ≤ L) (hscan : scan buf = none) :
    judgeLength buf L = .addressUnterminated := by
  unfold judgeLength
  rw [if_neg (by omega), if_neg (by omega), hscan]

theorem judgeLength_scanned (hn : L + 2 ≤ buf.length) (hL : 2 ≤ L) (hscan : scan buf = some hl) :
    judgeLength buf L = judgeChecksums buf L hl := by
  unfold judgeLength
  rw [if_neg (by omega), if_neg (by omega), hscan]

theorem judgeChecksums_short (h : buf.length ≤ hl + 2) : judgeChecksums buf L hl = .tooShort := if_pos h

theorem judgeChecksums_hcs (h : hl + 2 < buf.length) (hhcs : ¬crcCheck (listAt buf) hl = true) :
    judgeChecksums buf L hl = .hcs := by
  unfold judgeChecksums
  rw [if_neg (by omega), if_pos (by simpa using hhcs)]

theorem judgeChecksums_fcs (h : hl + 2 < buf.length) (hhcs : crcCheck (listAt buf) hl = true)
    (hfcs : ¬crcCheck (listAt buf) (L - 2) = true) : judgeChecksums buf L hl = .fcs := by
  unfold judgeChecksums
  rw [if_neg (by omega), if_neg (by simp [hhcs]), if_pos (by simpa using hfcs)]

theorem judgeChecksums_ok (h : hl + 2 < buf.length) (hhcs : crcCheck (listAt buf) hl = true)
    (hfcs : crcCheck (listAt buf) (L - 2) = true) : judgeChecksums buf L hl = .ok := by
  unfold judgeChecksums
  rw [if_neg (by omega), if_neg (by simp [hhcs]), if_neg (by simp [hfcs])]

end

theorem crcCheck_iff (f : Nat → Byte) (n : Nat) :
    crcCheck f n = true ↔ crcSpan f 1 n = littleEndian (f (n + 1)) (f (n + 2)) := beq_iff_eq

/-- The check of the full checksum, with its two bytes at the offsets R176 gives them. -/
theorem crcCheck_full_iff (f : Nat → Byte) {L : Nat} (hL : 2 ≤ L) :
    crcCheck f (L - 2) = true ↔ crcSpan f 1 (L - 2) = littleEndian (f (L - 1)) (f L) := by
  rw [crcCheck_iff, show L - 2 + 1 = L - 1 by omega, show L - 2 + 2 = L by omega]

/-- Settles O58: the reason is what the tests of R176, one after the other, judge. -/
theorem validatorReportsTheFirstFailure : Obligations.ValidatorReportsTheFirstFailure := by
  intro buf s
  refine ⟨judge buf, exec_isvalid buf s, ?_, ?_, ?_, ?_⟩
  · rintro rfl
    rfl
  · rintro b t rfl hb
    exact judge_cons_of_ne_flag t hb
  · rintro t rfl ht
    exact judge_of_flag_short rfl (Nat.succ_lt_succ ht)
  · intro b₁ b₂ t L hbuf hL
    have hjudge : judge buf = judgeLength buf L := by
      rw [hbuf, hL]
      exact judge_flag_cons b₁ b₂ t
    rw [hjudge]
    refine ⟨judgeLength_short, fun hn hL2 => ⟨judgeLength_unterminated hn hL2, fun hl hscan => ?_⟩⟩
    rw [judgeLength_scanned hn hL2 hscan]
    have hHcs := crcCheck_iff (listAt buf) hl
    have hFcs := crcCheck_full_iff (listAt buf) hL2
    refine ⟨judgeChecksums_short, fun hlt => ⟨fun hne => ?_, fun heq => ⟨fun hne => ?_, fun hfull => ?_⟩⟩⟩
    · exact judgeChecksums_hcs hlt (mt hHcs.1 hne)
    · exact judgeChecksums_fcs hlt (hHcs.2 heq) (mt hFcs.1 hne)
    · exact judgeChecksums_ok hlt (hHcs.2 heq) (hFcs.2 hfull)

/-! ## Completed frames (R180) -/

/-- The bytes below the cursor hold both address fields, so SCAN finds the reader's control byte. -/
theorem State.Inv.scan_stored {s : State} (h : s.Inv) (hs : 0 < s.slen.val) :
    scan (spanOf s.byteAt 0 s.position) = some s.ctrlOff := by
  have hd := h.dlen_pos hs
  obtain ⟨hdEnd, hdst⟩ := h.destination.known hd
  obtain ⟨hsEnd, hsrc⟩ := (h.source hd).known hs
  exact (scan_eq_some_iff _ _).2 ⟨_, _, hdst.congr fun a ha => listAt_spanOf _ (by omega),
    hsrc.congr fun a ha => listAt_spanOf _ (by omega), rfl⟩

/-- Clauses (c), (e) and (l) of R39 are the tests before those of the checksums. -/
theorem State.Inv.judge_completed {s : State} (h : s.Inv) (hc : s.complete = true) :
    judge (spanOf s.byteAt 0 s.position) =
      judgeChecksums (spanOf s.byteAt 0 s.position) s.dataLength.toNat s.ctrlOff := by
  obtain ⟨-, hend, -, hd, hs, hmin, -⟩ := h.completed hc
  unfold State.stopPos at hend
  have hn := spanOf_length s.byteAt 0 s.position
  have hflag : listAt (spanOf s.byteAt 0 s.position) 0 = Config.flag :=
    (listAt_spanOf _ (by omega)).trans (h.startFlag (by omega))
  rw [judge_of_flag hflag (by omega), listAt_spanOf _ (by omega), listAt_spanOf _ (by omega),
    ← h.lengthCaptured (by omega), judgeLength_scanned (by omega) (by omega) (h.scan_stored hs)]

theorem State.crcCheck_stored {s : State} {n : Nat} (hn : n + 2 < s.position) :
    crcCheck (listAt (spanOf s.byteAt 0 s.position)) n = crcCheck s.byteAt n :=
  crcCheck_congr _ _ n fun a _ ha => listAt_spanOf _ (by omega)

/-- Settles O59: clauses (k) and (m) of R39 are the two checks; a frame shorter than `5 + d + s` ends before its header
checksum would. -/
theorem completedFrameIsValid : Obligations.CompletedFrameIsValid := by
  intro s u h hc
  obtain ⟨-, hend, -, hd, hs, -, hne, -⟩ := h.completed hc
  have hn := spanOf_length s.byteAt 0 s.position
  have hctrl : s.ctrlOff = 3 + s.dlen.val + s.slen.val := rfl
  have hhcsPos : s.hcsPos = 6 + s.dlen.val + s.slen.val := rfl
  unfold State.stopPos at hend
  rw [exec_isvalid, h.judge_completed hc]
  refine ⟨fun hL => ?_, fun hL => ?_⟩
  · have hhcs := (State.crcCheck_stored (by omega)).trans (h.headerChecked hd hs (by omega))
    have hfcs := (State.crcCheck_stored (by omega)).trans (h.completedChecked hc hL)
    rw [judgeChecksums_ok (by omega) hhcs hfcs]
    rfl
  · rw [judgeChecksums_short (by omega)]
    rfl

end Sys2Proof.Machine
end

section
/-! SUPPORT. Drops (R190 to R195): what FEED can answer of `drop`, said once, and with it the exact condition of every
cause and the state a drop leaves. -/

namespace Sys2Proof.Machine

/-! ## The checks that reject a byte -/

/-- FEED's check that rejects the byte `b` of the open attempt `s`, by the cause it reports (R192). -/
inductive Rejects (b : Byte) (s : State) : DropCause → Prop where
  | format (hp : s.position = 1) (hb : b ≠ Config.flag) (hfmt : b &&& Config.fmtMask ≠ Config.fmtValid) :
      Rejects b s .format
  | dstLong (hp : 6 ≤ s.position) (hd : s.dlen.val = 0) : Rejects b s .dstLong
  | srcLong (hp : 6 + s.dlen.val ≤ s.position) (hd : 0 < s.dlen.val) (hs : s.slen.val = 0) : Rejects b s .srcLong
  | hcs (hd : 0 < s.dlen.val) (hs : 0 < s.slen.val) (hh : s.position + 1 = s.hcsPos)
      (hne : crcSpan s.byteAt 1 (s.position - 2) ≠ littleEndian (s.byteAt (s.position - 1)) b) : Rejects b s .hcs
  | fcs (hp : 3 ≤ s.position) (hd : 0 < s.dlen.val) (hs : 0 < s.slen.val) (hh : s.position + 1 ≠ s.hcsPos)
      (hf : s.position + 1 = s.fcsPos)
      (hne : crcSpan s.byteAt 1 (s.position - 2) ≠ littleEndian (s.byteAt (s.position - 1)) b) : Rejects b s .fcs
  | stop (hp : 3 ≤ s.position) (hd : 0 < s.dlen.val) (hs : 0 < s.slen.val) (hh : s.position + 1 ≠ s.hcsPos)
      (hstop : s.position + 1 = s.stopPos) (hb : b ≠ Config.flag) : Rejects b s .stop

/-- What FEED of `b` at `s` is with regard to drops: it reports none, it is the pre-reset's, or it is the drop of a
rejected byte after the store. -/
inductive FeedResult (b : Byte) (s t : State) : Prop where
  | kept (done : Bool) (h : t.output = .feed done .none)
  | restarted (hr : s.mustRestart) (h : t = actRestart b s)
  | rejected (cause : DropCause) (ho : s.open_) (hrej : Rejects b s cause) (h : t = (s.store b).drop cause)

theorem actDst_short_output (b : Byte) {s : State} (h : s.position ≤ 6) : (actDst b s).output = .feed false .none := by
  unfold actDst Config.addrMax
  rw [if_neg (by omega)]
  split <;> rfl

theorem actSrc_short_output (b : Byte) {s : State} (h : s.position ≤ 6 + s.dlen.val) :
    (actSrc b s).output = .feed false .none := by
  unfold actSrc Config.addrMax
  rw [if_neg (by omega)]
  split <;> rfl

/-- The comparison of FEED.HCS and FEED.FCS in terms of the state before the store. -/
theorem crcCheck_store_iff {s : State} {b : Byte} (hp : 2 ≤ s.position) :
    crcCheck (s.store b).byteAt ((s.store b).position - 3) = true ↔
      crcSpan s.byteAt 1 (s.position - 2) = littleEndian (s.byteAt (s.position - 1)) b :=
  crcCheck_at_cursor (by omega)

theorem feedByte_result (b : Byte) (s : State) : FeedResult b s (feedByte b s) := by
  apply feedByte_cases (P := FeedResult b s)
  case ignore => exact fun _ _ => .kept _ rfl
  case release => exact fun hr hb => .restarted (s.mustRestart_iff.2 hr) (actRestart_other s hb).symm
  case reopen => exact fun hr hb => .restarted (s.mustRestart_iff.2 hr) (actRestart_flag s hb).symm
  case dup => exact fun _ _ => .kept _ rfl
  case start => exact fun _ _ _ => .kept _ rfl
  case fmt =>
    intro ho hp hb
    by_cases hfmt : b &&& Config.fmtMask = Config.fmtValid
    · exact .kept _ (congrArg State.output (actFmt_valid _ hfmt))
    · exact .rejected _ ho (.format hp hb hfmt) (actFmt_invalid _ hfmt)
  case len => exact fun _ _ => .kept _ rfl
  case dst =>
    intro ho _ hd
    by_cases hlong : 6 ≤ s.position
    · exact .rejected _ ho (.dstLong hlong hd) (actDst_long b (by simp; omega))
    · exact .kept _ (actDst_short_output b (by simp; omega))
  case src =>
    intro ho _ hd hs
    by_cases hlong : 6 + s.dlen.val ≤ s.position
    · exact .rejected _ ho (.srcLong hlong hd hs) (actSrc_long b (by simp; omega))
    · exact .kept _ (actSrc_short_output b (by simp; omega))
  case hcs =>
    intro ho hp hd hs hh
    by_cases hcrc : crcCheck (s.store b).byteAt ((s.store b).position - 3) = true
    · exact .kept _ (congrArg State.output (actHcs_pass hcrc))
    · exact .rejected _ ho (.hcs hd hs hh (mt (crcCheck_store_iff (by omega)).2 hcrc)) (actHcs_fail hcrc)
  case fcs =>
    intro ho hp hd hs hh hf
    by_cases hcrc : crcCheck (s.store b).byteAt ((s.store b).position - 3) = true
    · exact .kept _ (congrArg State.output (actFcs_pass hcrc))
    · exact .rejected _ ho (.fcs hp hd hs hh hf (mt (crcCheck_store_iff (by omega)).2 hcrc)) (actFcs_fail hcrc)
  case stop =>
    intro ho hp hd hs hh hstop
    by_cases hb : b = Config.flag
    · exact .kept _ (congrArg State.output (actStop_flag _ hb))
    · exact .rejected _ ho (.stop hp hd hs hh hstop hb) (actStop_other _ hb)
  case store => exact fun _ _ _ _ _ _ _ => .kept _ rfl

/-- A byte that a check rejects is dropped after the store. -/
theorem Rejects.feedByte_eq {b : Byte} {s : State} {cause : DropCause} (h : Rejects b s cause) (ho : s.open_) :
    feedByte b s = (s.store b).drop cause := by
  cases h with
  | format hp hb hfmt => exact (feedByte_of_select (select_fmt hp hb)).trans (actFmt_invalid _ hfmt)
  | dstLong hp hd =>
    exact (feedByte_of_select (select_dst b ho (by omega) hd)).trans (actDst_long b (by simp; omega))
  | srcLong hp hd hs =>
    exact (feedByte_of_select (select_src b ho (by omega) hd hs)).trans (actSrc_long b (by simp; omega))
  | hcs hd hs hh hne =>
    have hp : 3 ≤ s.position := by
      unfold State.hcsPos at hh
      omega
    exact (feedByte_of_select (select_hcs b ho hp hd hs hh)).trans
      (actHcs_fail (mt (crcCheck_store_iff (by omega)).1 hne))
  | fcs hp hd hs hh hf hne =>
    exact (feedByte_of_select (select_fcs b ho hp hd hs hh hf)).trans
      (actFcs_fail (mt (crcCheck_store_iff (by omega)).1 hne))
  | stop hp hd hs hh hstop hb =>
    exact (feedByte_of_select (select_stop b ho hp hd hs hh hstop)).trans (actStop_other _ hb)

/-! ## The causes of the pre-reset and those of the checks -/

/-- The causes a pre-reset can report (R122). -/
abbrev DropCause.ofRestart (cause : DropCause) : Prop := cause = .none ∨ cause = .short ∨ cause = .overflow

theorem State.restartCause_ofRestart (s : State) : s.restartCause.ofRestart := by
  unfold State.restartCause
  split_ifs
  · exact .inl rfl
  · exact .inr (.inl rfl)
  · exact .inr (.inr rfl)

theorem Rejects.not_ofRestart {b : Byte} {s : State} {cause : DropCause} (h : Rejects b s cause) :
    ¬cause.ofRestart := by
  cases h <;> simp [DropCause.ofRestart]

theorem actRestart_output (b : Byte) (s : State) : (actRestart b s).output = .feed false s.restartCause := by
  rw [← preResetCause_eq_restartCause]
  by_cases hb : b = Config.flag
  · rw [actRestart_flag s hb, State.answer_output]
  · rw [actRestart_other s hb, State.answer_output]

theorem feedByte_restarts {s : State} (hr : s.mustRestart) (b : Byte) : feedByte b s = actRestart b s :=
  feedByte_of_select ((select_eq_restart_iff s b).2 hr)

section
variable {b : Byte} {s : State} {done : Bool} {cause c : DropCause} (hout : (feedByte b s).output = .feed done cause)
include hout

theorem reported_cause :
    cause = .none ∨ (s.mustRestart ∧ s.restartCause = cause) ∨ (s.open_ ∧ Rejects b s cause) := by
  cases feedByte_result b s with
  | kept _ h =>
    cases hout.symm.trans h
    exact .inl rfl
  | restarted hr h =>
    rw [h, actRestart_output] at hout
    cases hout
    exact .inr (.inl ⟨hr, rfl⟩)
  | rejected _ ho hrej h =>
    rw [h] at hout
    cases hout
    exact .inr (.inr ⟨ho, hrej⟩)

theorem cause_eq_iff_rejects (hc : ¬c.ofRestart) : cause = c ↔ s.open_ ∧ Rejects b s c := by
  refine ⟨fun heq => ?_, fun ⟨ho, hrej⟩ => ?_⟩
  · subst heq
    obtain hnone | ⟨-, hcause⟩ | hrejected := reported_cause hout
    · exact absurd (.inl hnone) hc
    · exact absurd (hcause ▸ s.restartCause_ofRestart) hc
    · exact hrejected
  · rw [hrej.feedByte_eq ho] at hout
    cases hout
    rfl

theorem cause_eq_iff_restarts (hc : c.ofRestart) (hne : c ≠ .none) :
    cause = c ↔ s.mustRestart ∧ s.restartCause = c := by
  refine ⟨fun heq => ?_, fun ⟨hr, hcause⟩ => ?_⟩
  · subst heq
    obtain hnone | hrestart | ⟨-, hrej⟩ := reported_cause hout
    · exact absurd hnone hne
    · exact hrestart
    · exact absurd hc hrej.not_ofRestart
  · rw [feedByte_restarts hr, actRestart_output] at hout
    cases hout
    exact hcause

end

/-! ## The conditions of R192 -/

theorem State.open_iff_not_mustRestart (s : State) : s.open_ ↔ ¬s.mustRestart :=
  ⟨State.open_.not_mustRestart, State.open_of_not_mustRestart⟩

theorem State.restartCause_eq_short_iff (s : State) :
    s.mustRestart ∧ s.restartCause = .short ↔
      s.complete = false ∧ 0 < s.dataLength.toNat ∧ s.dataLength.toNat + 2 ≤ s.position := by
  unfold State.mustRestart State.restartCause
  by_cases hc : s.complete = true
  · simp [hc]
  · by_cases hstale : 0 < s.dataLength.toNat ∧ s.dataLength.toNat + 2 ≤ s.position <;> simp [hc, hstale]

theorem State.restartCause_eq_overflow_iff (s : State) :
    s.mustRestart ∧ s.restartCause = .overflow ↔
      s.cap.val ≤ s.position ∧ s.complete = false ∧
        ¬(0 < s.dataLength.toNat ∧ s.dataLength.toNat + 2 ≤ s.position) := by
  unfold State.mustRestart State.restartCause
  by_cases hc : s.complete = true
  · simp [hc]
  · by_cases hstale : 0 < s.dataLength.toNat ∧ s.dataLength.toNat + 2 ≤ s.position <;> simp [hc, hstale]

theorem rejects_format_iff (b : Byte) (s : State) :
    s.open_ ∧ Rejects b s .format ↔
      s.position = 1 ∧ b ≠ Config.flag ∧ b &&& Config.fmtMask ≠ Config.fmtValid :=
  ⟨fun ⟨_, .format hp hb hfmt⟩ => ⟨hp, hb, hfmt⟩,
    fun ⟨hp, hb, hfmt⟩ => ⟨State.open_of_position_le_two (by omega), .format hp hb hfmt⟩⟩

section
variable {b : Byte} {s : State}

theorem rejects_hcs_iff :
    Rejects b s .hcs ↔ 0 < s.dlen.val ∧ 0 < s.slen.val ∧ s.position + 1 = s.hcsPos ∧
      crcSpan s.byteAt 1 (s.position - 2) ≠ littleEndian (s.byteAt (s.position - 1)) b :=
  ⟨fun (.hcs hd hs hh hne) => ⟨hd, hs, hh, hne⟩, fun ⟨hd, hs, hh, hne⟩ => .hcs hd hs hh hne⟩

variable (h : s.Inv)
include h

/-- Clause (g) of R39 bounds the cursor while the destination address is unfinished. -/
theorem State.Inv.rejects_dstLong_iff : Rejects b s .dstLong ↔ s.position + 1 = 7 ∧ s.dlen = 0 := by
  refine ⟨fun (.dstLong hp hd) => ?_, fun ⟨hp, hd⟩ => .dstLong (by omega) (congrArg Fin.val hd)⟩
  obtain ⟨-, hle, -⟩ := h.dstPending hd
  exact ⟨by omega, Fin.ext hd⟩

/-- Clause (i) of R39 bounds the cursor while the source address is unfinished. -/
theorem State.Inv.rejects_srcLong_iff :
    Rejects b s .srcLong ↔ 0 < s.dlen.val ∧ s.slen = 0 ∧ s.position + 1 = 7 + s.dlen.val := by
  refine ⟨fun (.srcLong hp hd hs) => ?_, fun ⟨hd, hs, hp⟩ => .srcLong (by omega) hd (congrArg Fin.val hs)⟩
  obtain ⟨hle, -⟩ := h.srcPending hd hs
  exact ⟨hd, Fin.ext hs, by omega⟩

/-- A reader that knows the source address is past the length (clause (h) of R39). -/
theorem State.Inv.three_le_position (hs : 0 < s.slen.val) : 3 ≤ s.position := by
  obtain ⟨-, hle, -⟩ := h.srcKnown hs
  omega

theorem State.Inv.rejects_fcs_iff :
    Rejects b s .fcs ↔ 0 < s.dlen.val ∧ 0 < s.slen.val ∧ s.position + 1 = s.fcsPos ∧ s.position + 1 ≠ s.hcsPos ∧
      crcSpan s.byteAt 1 (s.position - 2) ≠ littleEndian (s.byteAt (s.position - 1)) b :=
  ⟨fun (.fcs _ hd hs hh hf hne) => ⟨hd, hs, hf, hh, hne⟩,
    fun ⟨hd, hs, hf, hh, hne⟩ => .fcs (h.three_le_position hs) hd hs hh hf hne⟩

theorem State.Inv.rejects_stop_iff :
    Rejects b s .stop ↔ 0 < s.dlen.val ∧ 0 < s.slen.val ∧ s.position + 1 = s.stopPos ∧ s.position + 1 ≠ s.hcsPos ∧
      b ≠ Config.flag :=
  ⟨fun (.stop _ hd hs hh hstop hb) => ⟨hd, hs, hstop, hh, hb⟩,
    fun ⟨hd, hs, hstop, hh, hb⟩ => .stop (h.three_le_position hs) hd hs hh hstop hb⟩

end

/-- Settles O40: a cause is the pre-reset's or that of the check that rejects the byte, and each has its condition. -/
theorem dropCausesAreExact : Obligations.DropCausesAreExact := by
  intro s t b done cause h ht hout
  cases ht
  have rejects (c : DropCause) (hc : ¬c.ofRestart) : cause = c ↔ ¬s.mustRestart ∧ Rejects b s c := by
    rw [← s.open_iff_not_mustRestart]
    exact cause_eq_iff_rejects hout hc
  refine ⟨?_, ?_, ?_, ?_, ?_, ?_, ?_, ?_⟩
  · exact (cause_eq_iff_rejects hout (by decide)).trans (rejects_format_iff b s)
  · exact (rejects .dstLong (by decide)).trans (and_congr_right' h.rejects_dstLong_iff)
  · exact (rejects .srcLong (by decide)).trans (and_congr_right' h.rejects_srcLong_iff)
  · exact (cause_eq_iff_restarts hout (by decide) (by decide)).trans s.restartCause_eq_overflow_iff
  · exact (rejects .hcs (by decide)).trans (and_congr_right' rejects_hcs_iff)
  · exact (rejects .fcs (by decide)).trans (and_congr_right' h.rejects_fcs_iff)
  · exact (rejects .stop (by decide)).trans (and_congr_right' h.rejects_stop_iff)
  · exact (cause_eq_iff_restarts hout (by decide) (by decide)).trans s.restartCause_eq_short_iff

/-! ## The state a drop leaves -/

/-- Settles O41: a rejected byte is stored before the registers are cleared, and the causes of the pre-reset come from
FEED.RESTART, which handles the byte as in Idle. -/
theorem dropLeavesTheResetState : Obligations.DropLeavesTheResetState := by
  intro s t b cause ht hout hne
  cases ht
  obtain hnone | ⟨hr, rfl⟩ | ⟨ho, hrej⟩ := reported_cause hout
  · exact absurd hnone hne
  · refine ⟨fun hshort hoverflow => ?_, fun _ => ?_⟩
    · obtain h | h | h := s.restartCause_ofRestart
      · exact absurd h hne
      · exact absurd h hshort
      · exact absurd h hoverflow
    · rw [feedByte_restarts hr, ← preResetCause_eq_restartCause]
      refine ⟨actRestart_other s, ?_⟩
      rintro rfl
      exact actRestart_flag s rfl
  · exact ⟨fun _ _ => hrej.feedByte_eq ho, fun hcause => absurd (.inr hcause) hrej.not_ofRestart⟩

end Sys2Proof.Machine
end

section
/-! SUPPORT. Every attempt ends (R196, R197): each FEED brings an attempt one byte nearer to the end of the buffer, or ends
it. -/

namespace Sys2Proof.Machine

/-! ## FEED in an attempt -/

theorem feedByte_of_open {b : Byte} {s : State} (ho : s.open_) (hp : 1 < s.position) :
    feedByte b s = afterStore b (s.store b) := by
  unfold feedByte
  rw [if_neg (by omega), if_neg ho.not_ended, if_neg (by omega)]

theorem afterStore_cursor (b : Byte) (s : State) : CursorKept s (afterStore b s) := by
  unfold afterStore
  split_ifs
  · exact .inl rfl
  · exact actFmt_cursor b s
  · exact .inl rfl
  · exact actDst_cursor b s
  · exact actSrc_cursor b s
  · exact actHcs_cursor s
  · exact actFcs_cursor s
  · exact actStop_cursor b s
  · exact .inl rfl

/-- Past the start flag a FEED ends the attempt, or advances it, for which the buffer must have room. -/
theorem feedByte_ends_or_advances {s : State} (b : Byte) (hp : 1 < s.position) :
    (feedByte b s).position ≤ 1 ∨ s.position < s.cap.val ∧ (feedByte b s).position = s.position + 1 := by
  by_cases hr : s.mustRestart
  · exact .inl (feedByte_of_mustRestart hr b).2
  · have ho := State.open_of_not_mustRestart hr
    rw [feedByte_of_open ho hp]
    obtain h | h := afterStore_cursor b (s.store b)
    · exact .inr ⟨ho.2, h⟩
    · exact .inl (h.trans_le (Nat.zero_le 1))

/-! ## Attempts end -/

/-- By induction on the bytes: one more than the buffer has room for ends the attempt. -/
theorem feedAll_take_ends {bytes : List Byte} {s : State} (hlen : s.cap.val - s.position < bytes.length) :
    ∃ (k : Nat) (outs : List Output) (t : State),
      k ≤ bytes.length ∧ feedAll (bytes.take k) s = some (outs, t) ∧ t.position ≤ 1 := by
  induction bytes generalizing s with
  | nil => exact absurd hlen (Nat.not_lt_zero _)
  | cons b rest ih =>
    obtain hp | hp := Nat.lt_or_ge 1 s.position
    · obtain hends | ⟨hroom, hadvances⟩ := feedByte_ends_or_advances b hp
      · exact ⟨1, [(feedByte b s).output], feedByte b s, Nat.le_add_left 1 _, rfl, hends⟩
      · rw [List.length_cons] at hlen
        have hrest : (feedByte b s).cap.val - (feedByte b s).position < rest.length := by
          rw [(feedByte_sameHost b s).1, hadvances]
          omega
        obtain ⟨k, outs, t, hk, hrun, ht⟩ := ih hrest
        refine ⟨k + 1, (feedByte b s).output :: outs, t, Nat.succ_le_succ hk, ?_, ht⟩
        rw [List.take_succ_cons, feedAll_cons, hrun]
        rfl
    · exact ⟨0, [], s, Nat.zero_le _, rfl, hp⟩

/-- Settles O46: CAP + 1 bytes are more than any cursor leaves room for. -/
theorem attemptsEnd : Obligations.AttemptsEnd := by
  intro s bytes hlen
  rw [← hlen]
  exact feedAll_take_ends (by omega)

end Sys2Proof.Machine
end

section
/-! SUPPORT. The idle step (R200). -/

namespace Sys2Proof.Machine

/-- Settles O2: an empty inbox is an idle reader, which the step leaves alone. -/
theorem stepWithoutRequestChangesNothing : Obligations.StepWithoutRequestChangesNothing := by
  intro s hin
  have hidle : s.idle = true := by simp [State.idle, hin]
  exact if_pos hidle

end Sys2Proof.Machine
end
